-- ==== Sys2Proof/Word.lean ====
section
/-! DEFINITION. The value types of 00_scope.md rule R13, at the fixed widths of rule R7. Every numeric value of the block
is an unsigned value of a stated width (rule R12), bit 0 its least significant bit (rule R11); everything else is a
member of a closed enumeration. The two types that only the collaborators use (Address, RegisterValue) are out of scope
with them (rule R6). -/
namespace Sys2Proof

/-- `Word`, `XLEN_WORD = 32`: the raw encoding of one instruction (rule R7, rule R13). -/
abbrev Word := BitVec 32

/-- `Opcode`, `OPC_W = 5`: the value of the opcode field (rule R7, rule R13). -/
abbrev Opcode := BitVec 5

/-- `RegNum`, `REGNUM_W = 4`: a raw register number, before validation (rule R7, rule R13). -/
abbrev RegNum := BitVec 4

/-- `Imm16`, `IMM_W = 16`: the immediate (rule R7, rule R13). -/
abbrev Imm16 := BitVec 16

/-- `Operation`: the decoded meaning of an opcode, a closed enumeration of `N_OPERATIONS = 1` member (rule R7, rule R13). -/
inductive Operation where
  | loadImmediate
  deriving DecidableEq, Repr

/-- `RegisterID`: the register identifiers of both revisions. Which of them are members for a given `ISA_REV` is
`IsaRev.members` (10_state.md rule R24). -/
inductive RegisterID where
  | x0
  | a0
  | ra
  | sp
  deriving DecidableEq, Repr

/-- `Error`: the three error kinds and no others (60_exceptions.md rule R180), each with the payload of rule R181 to
rule R183. They are values returned to the caller, never a stop of the machine (rule R186). -/
inductive Error where
  /-- The opcode is unmapped. The payload is the whole word (41_decode_dispatch.md rule R127). -/
  | unknownInstruction (word : Word)
  /-- Reserved for forward extension. No word produces it (41_decode_dispatch.md rule R129). -/
  | invalidInstruction
  /-- A register number outside the set. The payload is the rejected number (41_decode_dispatch.md rule R128). -/
  | invalidRegister (id : RegNum)
  deriving DecidableEq, Repr

/-- `Result(T, Error)`: either `Ok(t)` or `Err(e)`, never both, never neither (rule R13). -/
inductive Result (α : Type) where
  | ok (value : α)
  | err (error : Error)
  deriving DecidableEq, Repr

/-- Is the result `Ok`? -/
def Result.isOk {α : Type} : Result α → Bool
  | .ok _ => true
  | .err _ => false

end Sys2Proof
end

