-- ==== Sys2Proof/Config.lean ====
section
/-! DEFINITION. The build-time parameters of the block (00_scope.md rule R8, rule R9): chosen before the block exists and
the same for every word it decodes (70_reset_and_hazards.md rule R215). They are configuration, never fields of State
(10_state.md rule R21). No other parameter exists (rule R10). Every function of the model takes them as an argument;
`Config.hardware` is this hardware's choice. -/
namespace Sys2Proof

/-- `ISA_REV` (rule R8). `REV_B` carries the two register numbers `ID_RA` and `ID_SP`, which the spec leaves OPEN: a
model that instantiates `REV_B` takes them as arguments (log entry 6). -/
inductive IsaRev where
  | revA
  | revB (idRA idSP : RegNum)
  deriving DecidableEq, Repr

/-- `SRC2_LAYOUT` (rule R9): who owns bit 16 of the word. -/
inductive Src2Layout where
  | overlap4
  | disjoint3
  deriving DecidableEq, Repr

/-- The two build-time parameters together. -/
structure Config where
  isaRev : IsaRev
  src2Layout : Src2Layout
  deriving DecidableEq, Repr

/-- This hardware: `ISA_REV = REV_A`, `SRC2_LAYOUT = OVERLAP4` (92_eei_decisions.md D2 and D1; log entries 5 and 6). -/
def Config.hardware : Config := ⟨.revA, .overlap4⟩

/-- The members of `RegisterID` for a revision (10_state.md rule R24). -/
def IsaRev.members : IsaRev → List RegisterID
  | .revA => [.x0, .a0]
  | .revB _ _ => [.x0, .a0, .ra, .sp]

/-- The numbers a `REV_B` model may be given: each in 2..15, and different (40_register_validator.md rule R103 (d)). -/
def IsaRev.valid : IsaRev → Bool
  | .revA => true
  | .revB idRA idSP => decide (2 ≤ idRA.toNat) && decide (2 ≤ idSP.toNat) && decide (idRA ≠ idSP)

/-- A configuration the block can be built with. -/
def Config.valid (cfg : Config) : Bool := cfg.isaRev.valid

/-- FREE VALUE. What `err_info_o` carries beside the code of `InvalidInstruction`: the kind has no payload and no word
produces it (60_exceptions.md rule R182), so the spec states no value there (log entry 9). -/
opaque Config.invalidInstructionInfo : Word

end Sys2Proof
end

