-- ==== Sys2Proof/Syntax.lean ====
section
/-! DEFINITION. The instructions: one constructor per row of spec/opcode_table.json. A term of `Instr` is the spec's
record `Instruction` (00_scope.md rule R13): its constructor is the `operation` field, its arguments are `dest`, `src1`,
`src2` and `imm`. -/
namespace Sys2Proof

/-- `Instruction`, the validated result of a decode (00_scope.md rule R13). Register operands are identifiers, not raw
numbers (10_state.md rule R23 (a)). -/
inductive Instr where
  /-- `LoadImmediate dest, src1, src2, imm` (42_load_immediate.md rule R150; the notation is 30_encoding.md rule R88). -/
  | loadImmediate (dest src1 src2 : RegisterID) (imm : Imm16)
  deriving DecidableEq, Repr

/-- `Instruction.operation` (rule R13). -/
def Instr.operation : Instr → Operation
  | .loadImmediate _ _ _ _ => .loadImmediate

/-- `Instruction.dest` (rule R13). -/
def Instr.dest : Instr → RegisterID
  | .loadImmediate dest _ _ _ => dest

/-- `Instruction.src1` (rule R13). -/
def Instr.src1 : Instr → RegisterID
  | .loadImmediate _ src1 _ _ => src1

/-- `Instruction.src2` (rule R13). -/
def Instr.src2 : Instr → RegisterID
  | .loadImmediate _ _ src2 _ => src2

/-- `Instruction.imm` (rule R13). -/
def Instr.imm : Instr → Imm16
  | .loadImmediate _ _ _ imm => imm

end Sys2Proof
end

