-- ==== Sys2Proof/Machine/Operands.lean ====
section
/-! DEFINITION. The register-ID validator (`RegisterSet`, 40_register_validator.md): the register table `REGMAP`, its
inverse `num`, and the operation `resolve`. Every register operand of the one format has this one form
(30_encoding.md rule R79): a 4-bit number validated by `resolve`. It reads no state and holds no register value
(rule R100, rule R106). -/
namespace Sys2Proof

/-- `REGMAP` (40_register_validator.md rule R102), keyed by `ISA_REV`. -/
def regmap (rev : IsaRev) (n : RegNum) : Option RegisterID :=
  if n = 0#4 then some .x0
  else if n = 1#4 then some .a0
  else match rev with
    | .revA => none
    | .revB idRA idSP =>
      if n = idRA then some .ra
      else if n = idSP then some .sp
      else none

/-- `num` (40_register_validator.md rule R108): the number a register identifier answers to. An identifier that is no
member of the revision (10_state.md rule R24) has none. -/
def num : IsaRev → RegisterID → Option RegNum
  | _, .x0 => some 0#4
  | _, .a0 => some 1#4
  | .revA, .ra => none
  | .revA, .sp => none
  | .revB idRA _, .ra => some idRA
  | .revB _ idSP, .sp => some idSP

/-- `resolve` (40_register_validator.md rule R104): the payload of the error is the argument itself. -/
def resolve (rev : IsaRev) (id : RegNum) : Result RegisterID :=
  match regmap rev id with
  | some r => .ok r
  | none => .err (.invalidRegister id)

end Sys2Proof
end

