-- ==== Sys2Proof/WellFormed.lean ====
section
/-! DEFINITION. Which terms of `Instr` are instructions of the block: those that "did pass validation" (10_state.md
rule R23). The register operands are members of the revision (rule R23 (a), rule R24), and the word bits that `src2` and
`imm` ask for agree (the side condition of 30_encoding.md rule R89). The immediate alone carries no condition
(rule R23). -/
namespace Sys2Proof

/-- The identifier is a member of the revision's `RegisterID` (10_state.md rule R24). -/
def registerInRevision (rev : IsaRev) (r : RegisterID) : Bool := decide (r ∈ rev.members)

/-- Can one word hold this `src2` number and this immediate? Under `OVERLAP4` they share bit 16; under `DISJOINT3` the
`src2` field has three bits (30_encoding.md rule R75, rule R77, rule R89). -/
def bit16Agrees (layout : Src2Layout) (src2 : RegNum) (imm : Imm16) : Bool :=
  match layout with
  | .overlap4 => src2.getLsbD 3 == imm.getLsbD 0
  | .disjoint3 => src2.getLsbD 3 == false

/-- The same of an identifier, through its number. -/
def src2FitsImm (cfg : Config) (src2 : RegisterID) (imm : Imm16) : Bool :=
  match num cfg.isaRev src2 with
  | some n => bit16Agrees cfg.src2Layout n imm
  | none => false

/-- An instruction of the block built with `cfg`. -/
def Instr.wellFormed (cfg : Config) (i : Instr) : Bool :=
  registerInRevision cfg.isaRev i.dest && registerInRevision cfg.isaRev i.src1
    && registerInRevision cfg.isaRev i.src2 && src2FitsImm cfg i.src2 i.imm

end Sys2Proof
end

