-- ==== Sys2Proof/Decode.lean ====
section
/-! DEFINITION. The instruction decoder (`InstructionDecoder`, 41_decode_dispatch.md): field extraction, opcode
dispatch, operand validation and assembly, as one total function; after it the encoder, the spec's helper `enc`
(30_encoding.md rule R89). -/
namespace Sys2Proof

/-- `opcode(w) = w[4:0]` (30_encoding.md rule R72). -/
def opcodeField (w : Word) : Opcode := w.extractLsb' 0 5

/-- `dest(w) = w[8:5]` (30_encoding.md rule R73). -/
def destField (w : Word) : RegNum := w.extractLsb' 5 4

/-- `src1(w) = w[12:9]` (30_encoding.md rule R74). -/
def src1Field (w : Word) : RegNum := w.extractLsb' 9 4

/-- `src2(w)`: `w[16:13]` under `OVERLAP4`, `zext_4(w[15:13])` under `DISJOINT3` (30_encoding.md rule R75). -/
def src2Field (layout : Src2Layout) (w : Word) : RegNum :=
  match layout with
  | .overlap4 => w.extractLsb' 13 4
  | .disjoint3 => (w.extractLsb' 13 3).setWidth 4

/-- `imm(w) = w[31:16]` in both layouts (30_encoding.md rule R76). -/
def immField (w : Word) : Imm16 := w.extractLsb' 16 16

/-- The five extracted values. -/
structure Fields where
  opcode : Opcode
  dest : RegNum
  src1 : RegNum
  src2 : RegNum
  imm : Imm16
  deriving DecidableEq, Repr

/-- `fields` (41_decode_dispatch.md rule R121): defined for every word, no validation. -/
def fields (cfg : Config) (w : Word) : Fields :=
  ⟨opcodeField w, destField w, src1Field w, src2Field cfg.src2Layout w, immField w⟩

/-- `OPTABLE` (30_encoding.md rule R80): fixed, one mapped value. -/
def optable (o : Opcode) : Option Operation :=
  if o = 0b00001#5 then some .loadImmediate else none

/-- The opcode value that `OPTABLE` maps to an operation. -/
def opcodeOf : Operation → Opcode
  | .loadImmediate => 0b00001#5

/-- Step four of decode, assembly (41_decode_dispatch.md rule R125). -/
def assemble (op : Operation) (dest src1 src2 : RegisterID) (imm : Imm16) : Instr :=
  match op with
  | .loadImmediate => .loadImmediate dest src1 src2 imm

/-- `decode`, complete (41_decode_dispatch.md rule R125): the opcode is judged first (rule R126), then `dest`, `src1`,
`src2` in that order (rule R123). -/
def decode (cfg : Config) (w : Word) : Result Instr :=
  match optable (opcodeField w) with
  | none => .err (.unknownInstruction w)
  | some op =>
    match resolve cfg.isaRev (destField w) with
    | .err _ => .err (.invalidRegister (destField w))
    | .ok dest =>
      match resolve cfg.isaRev (src1Field w) with
      | .err _ => .err (.invalidRegister (src1Field w))
      | .ok src1 =>
        match resolve cfg.isaRev (src2Field cfg.src2Layout w) with
        | .err _ => .err (.invalidRegister (src2Field cfg.src2Layout w))
        | .ok src2 => .ok (assemble op dest src1 src2 (immField w))

/-- The concatenation of the five field values, as 30_encoding.md rule R89 writes it. -/
def encWord (o : Opcode) (d s1 s2 : RegNum) (i : Imm16) : Word :=
  i ++ s2.extractLsb' 0 3 ++ s1 ++ d ++ o

/-- `enc` (30_encoding.md rule R89): the word with these five field values, where there is one. -/
def enc (layout : Src2Layout) (o : Opcode) (d s1 s2 : RegNum) (i : Imm16) : Option Word :=
  if bit16Agrees layout s2 i then
    some (encWord o d s1 s2 i)
  else none

/-- The word of an instruction: `enc` on its opcode value and its registers' numbers (41_decode_dispatch.md rule R137).
It is defined exactly on the well-formed instructions. -/
def encode (cfg : Config) (i : Instr) : Option Word :=
  match num cfg.isaRev i.dest, num cfg.isaRev i.src1, num cfg.isaRev i.src2 with
  | some d, some s1, some s2 => enc cfg.src2Layout (opcodeOf i.operation) d s1 s2 i.imm
  | _, _, _ => none

/-- The value of `word_i` for an instruction given by its `nbits` bits `w`, every bit above them zero. The word is one
32-bit value on parallel wires, so there are no bytes to lay out (20_memory.md rule R55). -/
def tableWord (nbits w : Nat) : Word := BitVec.ofNat 32 (w % 2 ^ nbits)

/-- The instruction this hardware's decoder reads from the bits `w` of a row of the opcode table. -/
def decodeTableWord (nbits w : Nat) : Option Instr :=
  match decode Config.hardware (tableWord nbits w) with
  | .ok i => some i
  | .err _ => none

end Sys2Proof
end

