-- ==== Sys2Proof/Machine/State.lean ====
section
/-! DEFINITION. The block has no state (10_state.md rule R20): no register, no memory, no pc, no flag, no mode. What
`State` holds are its wires, as they stand once settled on the word now on the input port (43_port_encoding.md rule
R161, rule R162, rule R166, rule R167; log entry 1), and the words the caller has yet to present (log entry 2). -/
namespace Sys2Proof.Machine

/-- The wires of one register-ID validator (43_port_encoding.md rule R166). -/
structure ValidatorPorts where
  /-- `id_i[3:0]`, the raw register number. -/
  idI : RegNum
  /-- `valid_o`, one wire. -/
  validO : Bool
  /-- `rid_o[3:0]`. -/
  ridO : RegNum
  deriving DecidableEq, Repr

/-- The eight output ports of the decoder (43_port_encoding.md rule R162). -/
structure OutPorts where
  /-- `ok_o`, one wire: the result is `Ok`. -/
  okO : Bool
  /-- `err_kind_o[1:0]`, coded by rule R163. -/
  errKindO : BitVec 2
  /-- `err_info_o[31:0]`, the error's payload. -/
  errInfoO : Word
  /-- `op_o[4:0]`, the operation. -/
  opO : Opcode
  /-- `dest_o[3:0]`. -/
  destO : RegNum
  /-- `src1_o[3:0]`. -/
  src1O : RegNum
  /-- `src2_o[3:0]`. -/
  src2O : RegNum
  /-- `imm_o[15:0]`. -/
  immO : Imm16
  deriving DecidableEq, Repr

/-- Faults: there are none. The block never halts, locks up or stops answering (41_decode_dispatch.md rule R132,
60_exceptions.md rule R190); its three error kinds are values it delivers (`Sys2Proof.Error`), not stops. -/
inductive Fault where
  deriving DecidableEq, Repr

/-- Refusals. -/
inductive Refusal where
  /-- Raised by `exec` for an instruction the model gives no meaning yet (safe). No arm raises it. -/
  | notModelled (mnemonic : String)
  /-- Raised by a meaning that is handed a term naming a register outside this hardware's `RegisterID`: there is no way
  to build such an `Instruction` (10_state.md rule R23, rule R24) and no number to send for it. `step` never raises it
  (safe). -/
  | registerNotInRevision
  deriving DecidableEq, Repr

/-- The wires of the block, and the caller's words to come. -/
structure State where
  /-- `word_i[31:0]`, the input port (43_port_encoding.md rule R161). -/
  wordI : Word
  /-- The model's own field, not the spec's: the words the caller will present, the next one first (log entry 2). -/
  pending : List Word
  /-- The validator fed by `dest(word_i)` (43_port_encoding.md rule R167). -/
  vDest : ValidatorPorts
  /-- The validator fed by `src1(word_i)`. -/
  vSrc1 : ValidatorPorts
  /-- The validator fed by `src2(word_i)`. -/
  vSrc2 : ValidatorPorts
  /-- The output ports (43_port_encoding.md rule R162). -/
  out : OutPorts
  deriving DecidableEq, Repr

/-- At and after a reset of the surroundings: the block has nothing to reset, and its outputs follow whatever is on
`word_i` (70_reset_and_hazards.md rule R210). Which word that is the spec leaves to the caller (rule R212): the model
takes the all-zero word (log entry 3), on which the settled outputs are those of `UnknownInstruction(0)`
(43_port_encoding.md, worked examples of rule R169). No word is pending. -/
def State.reset : State where
  wordI := 0
  pending := []
  vDest := ⟨0, true, 0⟩
  vSrc1 := ⟨0, true, 0⟩
  vSrc2 := ⟨0, true, 0⟩
  out := ⟨false, 0b01, 0, 0, 0, 0, 0, 0⟩

end Sys2Proof.Machine
end

