-- ==== Sys2Proof/Machine/Flags.lean ====
section
/-! DEFINITION. The block has no flags, condition codes or status register (10_state.md rule R30). The nearest it has are
the two status outputs, `ok_o` and `err_kind_o`; this file holds the code on the second (43_port_encoding.md rule
R163). -/
namespace Sys2Proof.Machine

/-- `err_kind_o` when there is no error (rule R163). -/
def noErrorCode : BitVec 2 := 0b00

/-- `err_kind_o` for each error kind (rule R163). -/
def errKindCode : Error → BitVec 2
  | .unknownInstruction _ => 0b01
  | .invalidInstruction => 0b10
  | .invalidRegister _ => 0b11

end Sys2Proof.Machine
end

