-- ==== Sys2Proof/Machine/Ports.lean ====
section
/-! DEFINITION. The port-level rendering of both components (43_port_encoding.md): what the wires carry for a result
(rule R164, rule R165) and for a register number (rule R166), and how a result is read back from them (rule R169). -/
namespace Sys2Proof.Machine

/-- The validator's wires for a register number (rule R166). -/
def validatorPorts (rev : IsaRev) (id : RegNum) : ValidatorPorts :=
  match regmap rev id with
  | some _ => ⟨id, true, id⟩
  | none => ⟨id, false, 0#4⟩

/-- The output ports in the `Ok` case (rule R164). There are none for a term that names a register outside the revision:
its identifier has no number. -/
def okPorts (cfg : Config) (i : Instr) : Option OutPorts :=
  match num cfg.isaRev i.dest, num cfg.isaRev i.src1, num cfg.isaRev i.src2 with
  | some d, some s1, some s2 => some ⟨true, noErrorCode, 0#32, opcodeOf i.operation, d, s1, s2, i.imm⟩
  | _, _, _ => none

/-- `err_info_o` for an error (rule R165). The kind without a payload has no stated value there (log entry 9). -/
def errInfo : Error → Word
  | .unknownInstruction w => w
  | .invalidInstruction => Config.invalidInstructionInfo
  | .invalidRegister n => n.setWidth 32

/-- The output ports in the `Err` case (rule R165): every output that carries a part of an instruction is zero. -/
def errPorts (e : Error) : OutPorts :=
  ⟨false, errKindCode e, errInfo e, 0#5, 0#4, 0#4, 0#4, 0#16⟩

/-- The output ports for a result. -/
def resultPorts (cfg : Config) : Result Instr → Option OutPorts
  | .ok i => okPorts cfg i
  | .err e => some (errPorts e)

/-- The block as one function, from the input port to the output ports (rule R160, rule R164, rule R165). -/
def blockPorts (cfg : Config) (w : Word) : Option OutPorts := resultPorts cfg (decode cfg w)

/-- Reading the ports back (rule R169). A valuation that stands for no result gives none. -/
def readPorts (cfg : Config) (p : OutPorts) : Option (Result Instr) :=
  if p.okO then
    match optable p.opO, regmap cfg.isaRev p.destO, regmap cfg.isaRev p.src1O, regmap cfg.isaRev p.src2O with
    | some op, some d, some s1, some s2 => some (.ok (assemble op d s1 s2 p.immO))
    | _, _, _, _ => none
  else if p.errKindO = 0b01#2 then some (.err (.unknownInstruction p.errInfoO))
  else if p.errKindO = 0b11#2 then some (.err (.invalidRegister (p.errInfoO.extractLsb' 0 4)))
  else none

/-- The valuations that rule R169 lists, its first alternative. -/
def listedOk (cfg : Config) (p : OutPorts) : Bool :=
  p.okO && p.errKindO == 0b00#2 && p.errInfoO == 0#32 && p.opO == 0b00001#5
    && (regmap cfg.isaRev p.destO).isSome && (regmap cfg.isaRev p.src1O).isSome && (regmap cfg.isaRev p.src2O).isSome

/-- The valuations that rule R169 lists, its second alternative. -/
def listedErr (cfg : Config) (p : OutPorts) : Bool :=
  !p.okO && p.opO == 0#5 && p.destO == 0#4 && p.src1O == 0#4 && p.src2O == 0#4 && p.immO == 0#16
    && ((p.errKindO == 0b01#2 && (optable (p.errInfoO.extractLsb' 0 5)).isNone)
      || (p.errKindO == 0b11#2 && decide (p.errInfoO.toNat < 16)
            && (regmap cfg.isaRev (p.errInfoO.extractLsb' 0 4)).isNone))

end Sys2Proof.Machine
end

