-- ==== Sys2Proof/Machine/Ops.lean ====
section
/-! DEFINITION. The named operations on the wires: the caller presents a word, and the block delivers a result. There is
no operation on memory or on register values: the block reaches neither (20_memory.md rule R50, 10_state.md rule R25).
Delivering an error stands where a processor has exception entry (60_exceptions.md rule R186, rule R187); there is no
return from one, because there is no entry (rule R189). -/
namespace Sys2Proof.Machine

/-- The word `w` on the input port: the three validators work on its register fields at once, whatever its opcode
(43_port_encoding.md rule R167). The outputs are what the delivery below drives. -/
def applyWord (w : Word) (s : State) : State :=
  { s with
    wordI := w
    vDest := validatorPorts Config.hardware.isaRev (destField w)
    vSrc1 := validatorPorts Config.hardware.isaRev (src1Field w)
    vSrc2 := validatorPorts Config.hardware.isaRev (src2Field Config.hardware.src2Layout w) }

/-- The word the next step works on: the caller's next word, or the one that stays on the port when the caller presents
no other (log entry 2). -/
def nextWord (s : State) : Word := s.pending.headD s.wordI

/-- The caller presents its next word (70_reset_and_hazards.md rule R213: any word, at any time, in any order). -/
def presentNext (s : State) : State :=
  applyWord (nextWord s) { s with pending := s.pending.tail }

/-- Drive the output ports. -/
def driveOutputs (p : OutPorts) (s : State) : State := { s with out := p }

/-- Deliver an error: it appears on the output ports with its kind and payload, for as long as its word is on `word_i`,
and nothing else changes (60_exceptions.md rule R186, rule R187, rule R188; 43_port_encoding.md rule R165). -/
def deliverError (e : Error) (s : State) : State := driveOutputs (errPorts e) s

/-- Deliver a decoded instruction on the output ports (43_port_encoding.md rule R164). -/
def deliverInstruction (i : Instr) (s : State) : Host.Outcome State Fault Refusal :=
  match okPorts Config.hardware i with
  | some p => .next (driveOutputs p s)
  | none => .refused .registerNotInRevision

/-- The caller's next word becomes the one an opcode-table row's bits stand for. -/
def presentTableWord (nbits w : Nat) (s : State) : State :=
  { s with pending := tableWord nbits w :: s.pending }

end Sys2Proof.Machine
end

