-- ==== Sys2Proof/Machine/LoadImmediate.lean ====
section
/-! DEFINITION. The one family, LoadImmediate (42_load_immediate.md). -/
namespace Sys2Proof.Machine

/-- `LoadImmediate`: "the whole of what this hardware does with the instruction" is to deliver it to the caller
(42_load_immediate.md rule R150; on the ports, 43_port_encoding.md rule R164). It reads and writes no register, no
memory, no flag and no pc: the spec gives it no effect there, and a model ends at the delivered `Instruction` (rule R151;
log entry 4). -/
def execLoadImmediate (dest src1 src2 : RegisterID) (imm : Imm16) (s : State) : Host.Outcome State Fault Refusal :=
  deliverInstruction (.loadImmediate dest src1 src2 imm) s

end Sys2Proof.Machine
end

