-- ==== Sys2Proof/Machine/Dispatch.lean ====
section
/-! DEFINITION. What each decoded instruction does. -/
namespace Sys2Proof.Machine

def exec (i : Instr) (s : State) : Host.Outcome State Fault Refusal :=
  match i with
  | .loadImmediate dest src1 src2 imm => Sys2Proof.Machine.execLoadImmediate dest src1 src2 imm s

end Sys2Proof.Machine
end

