-- ==== Sys2Proof/Machine/Step.lean ====
section
/-! DEFINITION. One step: the caller's word, one decode, one result ("a model has one step per word",
70_reset_and_hazards.md rule R218; log entry 2). -/
namespace Sys2Proof.Machine

/-- The caller presents its next word; the block delivers the instruction it decodes to, or the error. -/
def step (s : State) : Host.Outcome State Fault Refusal :=
  let t := presentNext s
  match decode Config.hardware t.wordI with
  | .ok i => exec i t
  | .err e => .next (deliverError e t)

/-- The state in which the caller's next word is the given instruction (log entry 8). -/
def State.withFetchWord (s : State) (nbits w : Nat) : State := presentTableWord nbits w s

end Sys2Proof.Machine
end

