-- ==== Sys2Proof/Machine/PortEquations.lean ====
section
/-! DEFINITION. The port-level function as equations on the wires (43_port_encoding.md rule R168), for `REV_A` and both
layouts. It is written from the equations alone, beside the definition of `blockPorts` through `decode`; the spec asks
that the two agree, and where they did not the abstract rule would govern. -/
namespace Sys2Proof.Machine

/-- One wire as the low bit of a 4-bit output, `0b000 ++ b`. -/
def lowWire (b : Bool) : RegNum := 0b000#3 ++ BitVec.ofBool b

/-- `vs2` of rule R168, in both layouts. -/
def src2Wire (layout : Src2Layout) (w : Word) : Bool :=
  match layout with
  | .overlap4 => w.extractLsb' 14 3 == 0b000#3
  | .disjoint3 => w.extractLsb' 14 2 == 0b00#2

/-- The last alternative of `bad_id` of rule R168, in both layouts. -/
def badSrc2Wire (layout : Src2Layout) (w : Word) : RegNum :=
  match layout with
  | .overlap4 => w.extractLsb' 13 4
  | .disjoint3 => 0b0#1 ++ w.extractLsb' 13 3

/-- The equations of rule R168. -/
def portEquations (layout : Src2Layout) (w : Word) : OutPorts :=
  let opcHit := w.extractLsb' 0 5 == 0b00001#5
  let vd := w.extractLsb' 6 3 == 0b000#3
  let vs1 := w.extractLsb' 10 3 == 0b000#3
  let vs2 := src2Wire layout w
  let ok := opcHit && vd && vs1 && vs2
  let badId : RegNum :=
    if !vd then w.extractLsb' 5 4 else if !vs1 then w.extractLsb' 9 4 else badSrc2Wire layout w
  { okO := ok
    errKindO := if ok then 0b00#2 else if !opcHit then 0b01#2 else 0b11#2
    errInfoO := if ok then 0#32 else if !opcHit then w else badId.setWidth 32
    opO := if ok then 0b00001#5 else 0b00000#5
    destO := lowWire (w.getLsbD 5 && ok)
    src1O := lowWire (w.getLsbD 9 && ok)
    src2O := lowWire (w.getLsbD 13 && ok)
    immO := if ok then w.extractLsb' 16 16 else 0#16 }

/-- The mask of the one-test form of legality (30_encoding.md rule R83), for `REV_A`. -/
def legalMask : Src2Layout → Word
  | .overlap4 => 0x0001DDDF#32
  | .disjoint3 => 0x0000DDDF#32

end Sys2Proof.Machine
end

