-- ==== Sys2Proof/Safety.lean ====
section
/-! DEFINITION. What claims about words and runs speak of: a run of bits, the wires are settled, and the machine goes on. -/
namespace Sys2Proof.Machine

/-- The value of `w[lo+n-1:lo]` as a number, `(w >> lo) mod 2^n` (00_scope.md rule R11). -/
def bitRun (w : Word) (lo n : Nat) : Nat := w.toNat / 2 ^ lo % 2 ^ n

/-- Every wire stands at the function of the word on `word_i` (43_port_encoding.md rule R160, rule R167;
70_reset_and_hazards.md rule R210, rule R219), for a block built with `cfg`. -/
structure Settled (cfg : Config) (s : State) : Prop where
  out : blockPorts cfg s.wordI = some s.out
  vDest : s.vDest = validatorPorts cfg.isaRev (destField s.wordI)
  vSrc1 : s.vSrc1 = validatorPorts cfg.isaRev (src1Field s.wordI)
  vSrc2 : s.vSrc2 = validatorPorts cfg.isaRev (src2Field cfg.src2Layout s.wordI)

/-- The outcome is a next state: the machine neither faults nor refuses (41_decode_dispatch.md rule R132,
60_exceptions.md rule R190). -/
def Answers (o : Host.Outcome State Fault Refusal) : Prop := ∃ t, o = .next t

end Sys2Proof.Machine
end

