-- ==== Sys2Proof/Certificates/Slice0/Obligations.lean ====
section
/-! DEFINITION. The statements for the provers. Where a statement rests on a decision the spec marks as its own, on an
inference it marks as derived, or on a choice of the model, its docstring says so. -/

open Sys2Proof Sys2Proof.Machine

/-! Encoding -/

/-- Format W32 (30_encoding.md rule R71): each field is the run of bits the list gives it, in both layouts. -/
def Obligations.FieldsAreTheListedBitRuns : Prop :=
  ∀ (cfg : Config) (w : Word),
    (fields cfg w).opcode.toNat = bitRun w 0 5 ∧ (fields cfg w).dest.toNat = bitRun w 5 4
      ∧ (fields cfg w).src1.toNat = bitRun w 9 4 ∧ (fields cfg w).imm.toNat = bitRun w 16 16
      ∧ (cfg.src2Layout = .overlap4 → (fields cfg w).src2.toNat = bitRun w 13 4)
      ∧ (cfg.src2Layout = .disjoint3 → (fields cfg w).src2.toNat = bitRun w 13 3)

/-- Bit 16 under the two layouts (30_encoding.md section 2; marked derived there). -/
def Obligations.Bit16FeedsSrc2AndImm : Prop :=
  ∀ w : Word,
    (src2Field .overlap4 w).getLsbD 3 = (immField w).getLsbD 0
      ∧ (immField w).getLsbD 0 = w.getLsbD 16
      ∧ (src2Field .disjoint3 w).getLsbD 3 = false

/-- No bit of the word is unused: two words with the same five fields are the same word, in both layouts
(30_encoding.md section 2; marked derived there). -/
def Obligations.FieldsDetermineTheWord : Prop :=
  ∀ (cfg : Config) (w v : Word), fields cfg w = fields cfg v → w = v

/-- The helper `enc` is the inverse of field extraction: where its side condition holds it gives the one word with those
five fields, and where it fails no word has them (30_encoding.md section 6; the spec's decision D16, marked derived). -/
def Obligations.EncIsTheInverseOfFields : Prop :=
  ∀ (cfg : Config) (o : Opcode) (d s1 s2 : RegNum) (i : Imm16),
    (bit16Agrees cfg.src2Layout s2 i = true →
        ∃ w, enc cfg.src2Layout o d s1 s2 i = some w ∧ fields cfg w = ⟨o, d, s1, s2, i⟩)
      ∧ (bit16Agrees cfg.src2Layout s2 i = false →
          enc cfg.src2Layout o d s1 s2 i = none ∧ ∀ w, fields cfg w ≠ ⟨o, d, s1, s2, i⟩)

/-- Every well-formed instruction has a word, and the decoder reads the instruction back from it, for every valid
configuration (41_decode_dispatch.md section 7; marked derived there). -/
def Obligations.DecodeReadsBackEncode : Prop :=
  ∀ (cfg : Config) (i : Instr), cfg.valid = true → i.wellFormed cfg = true →
    ∃ w, encode cfg i = some w ∧ decode cfg w = .ok i

/-- A legal word can be rebuilt from its instruction, in every configuration (41_decode_dispatch.md section 7; marked
derived there). -/
def Obligations.EncodeRebuildsTheLegalWord : Prop :=
  ∀ (cfg : Config) (w : Word) (i : Instr), decode cfg w = .ok i → encode cfg i = some w

/-- Two words that decode to the same instruction are the same word (41_decode_dispatch.md section 7; marked derived
there). -/
def Obligations.DecodeInjectiveOnSuccesses : Prop :=
  ∀ (cfg : Config) (w v : Word) (i : Instr), decode cfg w = .ok i → decode cfg v = .ok i → w = v

/-- The instructions the decoder delivers are exactly the well-formed ones (10_state.md section 1 and
41_decode_dispatch.md section 7; the converse is the model's reading of the side condition of `enc`). -/
def Obligations.DeliveredExactlyTheWellFormed : Prop :=
  ∀ (cfg : Config) (i : Instr), cfg.valid = true →
    ((∃ w, decode cfg w = .ok i) ↔ i.wellFormed cfg = true)

/-- Words written out from the encoding of 42_load_immediate.md section 1, opcode and fields bit by bit, and what they
stand for. The fourth word has bit 16 set: that it is `InvalidRegister(8)` rests on the layout `OVERLAP4` (the spec's
decision D1, log entry 5); under `DISJOINT3` it is the success that the source's third scenario expects (90_conflicts.md
C1). -/
def Obligations.WrittenOutWordsDecode : Prop :=
  decode Config.hardware 0b0000000000000010_000_0000_0001_00001#32 = .ok (.loadImmediate .a0 .x0 .x0 2)
    ∧ decode Config.hardware 0b1111111111111110_001_0001_0001_00001#32 = .ok (.loadImmediate .a0 .a0 .a0 0xFFFE)
    ∧ decode Config.hardware 0b0000000100000000_000_0001_0000_00001#32 = .ok (.loadImmediate .x0 .a0 .x0 0x0100)
    ∧ decode Config.hardware 0b1111111111111111_000_0000_0000_00001#32 = .err (.invalidRegister 8)

/-- Legality is one masked comparison, for `REV_A` and each layout (30_encoding.md section 5; marked derived there). -/
def Obligations.LegalWordsAreTheMaskedOnes : Prop :=
  ∀ (layout : Src2Layout) (w : Word),
    (decode ⟨.revA, layout⟩ w).isOk = true ↔ w &&& legalMask layout = 0x00000001#32

/-- How many words are legal, for `REV_A` and each layout (30_encoding.md section 5; marked derived there). -/
def Obligations.LegalWordsCounted : Prop :=
  Nat.card { w : Word // (decode ⟨.revA, .overlap4⟩ w).isOk = true } = 262144
    ∧ Nat.card { w : Word // (decode ⟨.revA, .disjoint3⟩ w).isOk = true } = 524288

/-- How many words are errors of each kind, for `REV_A` (30_encoding.md section 5; marked derived there). -/
def Obligations.ErrorWordsCounted : Prop :=
  (∀ cfg : Config, Nat.card { w : Word // ∃ v, decode cfg w = .err (.unknownInstruction v) } = 4160749568)
    ∧ Nat.card { w : Word // ∃ n, decode ⟨.revA, .overlap4⟩ w = .err (.invalidRegister n) } = 133955584
    ∧ Nat.card { w : Word // ∃ n, decode ⟨.revA, .disjoint3⟩ w = .err (.invalidRegister n) } = 133693440

/-- The immediates that `REV_A` words reach: under `OVERLAP4` exactly the even ones, under `DISJOINT3` all
(30_encoding.md section 5; marked derived there). -/
def Obligations.ReachableImmediates : Prop :=
  (∀ imm : Imm16, (∃ w i, decode ⟨.revA, .overlap4⟩ w = .ok i ∧ i.imm = imm) ↔ imm.toNat % 2 = 0)
    ∧ (∀ imm : Imm16, ∃ w i, decode ⟨.revA, .disjoint3⟩ w = .ok i ∧ i.imm = imm)

/-! The register-ID validator -/

/-- `resolve`: a number in the set maps to its identifier, any other fails with the number itself, unchanged
(40_register_validator.md rule R104). -/
def Obligations.ResolveMapsOrRejects : Prop :=
  ∀ (rev : IsaRev) (id : RegNum),
    (∀ r, regmap rev id = some r → resolve rev id = .ok r)
      ∧ (regmap rev id = none → resolve rev id = .err (.invalidRegister id))

/-- The table of `resolve` for `REV_A`, all 16 arguments (40_register_validator.md section 3; marked derived there). -/
def Obligations.ResolveTableRevA : Prop :=
  resolve .revA 0 = .ok .x0 ∧ resolve .revA 1 = .ok .a0
    ∧ ∀ id : RegNum, 2 ≤ id.toNat → resolve .revA id = .err (.invalidRegister id)

/-- The constraints every register table meets, whichever revision: 0 and 1, injective, onto the revision's identifiers
and nothing else (40_register_validator.md section 2 and section 4; the spec's decision D3). -/
def Obligations.RegisterTableConstraints : Prop :=
  ∀ rev : IsaRev, rev.valid = true →
    resolve rev 0 = .ok .x0 ∧ resolve rev 1 = .ok .a0
      ∧ (∀ (a b : RegNum) (r : RegisterID), resolve rev a = .ok r → resolve rev b = .ok r → a = b)
      ∧ (∀ r : RegisterID, (∃ a, resolve rev a = .ok r) ↔ r ∈ rev.members)

/-! Decoding -/

/-- The opcode is judged before the registers, and the error carries the whole word (41_decode_dispatch.md rule R126,
rule R127). -/
def Obligations.UnknownOpcodeJudgedFirst : Prop :=
  ∀ (cfg : Config) (w : Word),
    (optable (opcodeField w) = none → decode cfg w = .err (.unknownInstruction w))
      ∧ (∀ v, decode cfg w = .err (.unknownInstruction v) → optable (opcodeField w) = none ∧ v = w)
      ∧ (∀ n, decode cfg w = .err (.invalidRegister n) → (optable (opcodeField w)).isSome)

/-- The low five bits select the operation, and the value 1 alone is mapped, to `LoadImmediate` (30_encoding.md section 4;
that 2 to 31 are unmapped is the spec's decision D4). -/
def Obligations.OnlyOpcodeOneIsMapped : Prop :=
  ∀ w : Word,
    (bitRun w 0 5 = 1 → optable (opcodeField w) = some .loadImmediate)
      ∧ (bitRun w 0 5 ≠ 1 → optable (opcodeField w) = none)

/-- Exactly one outcome per word: the three classes, each with its condition, and no other (41_decode_dispatch.md rule
R130). -/
def Obligations.ExactlyOneOutcomePerWord : Prop :=
  ∀ (cfg : Config) (w : Word),
    ((decode cfg w).isOk = true ↔
        (optable (opcodeField w)).isSome ∧ (regmap cfg.isaRev (destField w)).isSome
          ∧ (regmap cfg.isaRev (src1Field w)).isSome
          ∧ (regmap cfg.isaRev (src2Field cfg.src2Layout w)).isSome)
      ∧ (decode cfg w = .err (.unknownInstruction w) ↔ optable (opcodeField w) = none)
      ∧ ((∃ n, decode cfg w = .err (.invalidRegister n)) ↔
          (optable (opcodeField w)).isSome
            ∧ (regmap cfg.isaRev (destField w) = none ∨ regmap cfg.isaRev (src1Field w) = none
                ∨ regmap cfg.isaRev (src2Field cfg.src2Layout w) = none))
      ∧ ((decode cfg w).isOk = true ∨ decode cfg w = .err (.unknownInstruction w)
          ∨ ∃ n, decode cfg w = .err (.invalidRegister n))

/-- Which number is reported when register fields are invalid: the first in the order dest, src1, src2
(41_decode_dispatch.md section 4, 60_exceptions.md section 2; the order is the spec's decision D5, the layout its
decision D1, the register set its decision D2). -/
def Obligations.FirstInvalidFieldReported : Prop :=
  ∀ w : Word, bitRun w 0 5 = 1 →
    (2 ≤ bitRun w 5 4 → decode Config.hardware w = .err (.invalidRegister (BitVec.ofNat 4 (bitRun w 5 4))))
      ∧ (bitRun w 5 4 < 2 → 2 ≤ bitRun w 9 4 →
          decode Config.hardware w = .err (.invalidRegister (BitVec.ofNat 4 (bitRun w 9 4))))
      ∧ (bitRun w 5 4 < 2 → bitRun w 9 4 < 2 → 2 ≤ bitRun w 13 4 →
          decode Config.hardware w = .err (.invalidRegister (BitVec.ofNat 4 (bitRun w 13 4))))
      ∧ (bitRun w 5 4 < 2 → bitRun w 9 4 < 2 → bitRun w 13 4 < 2 →
          decode Config.hardware w
            = .ok (.loadImmediate (if bitRun w 5 4 = 0 then .x0 else .a0) (if bitRun w 9 4 = 0 then .x0 else .a0)
                (if bitRun w 13 4 = 0 then .x0 else .a0) (BitVec.ofNat 16 (bitRun w 16 16))))

/-- The payload of `InvalidRegister` is a number that the revision does not have, one of the three extracted fields; from
`src2` under `DISJOINT3` it is never above 7 (41_decode_dispatch.md section 6; the spec's decision D22). -/
def Obligations.InvalidRegisterPayload : Prop :=
  ∀ (cfg : Config) (w : Word) (n : RegNum), decode cfg w = .err (.invalidRegister n) →
    regmap cfg.isaRev n = none
      ∧ (n = destField w ∨ n = src1Field w ∨ n = src2Field cfg.src2Layout w)
      ∧ (cfg.src2Layout = .disjoint3 → n ≠ destField w → n ≠ src1Field w → n.toNat ≤ 7)

/-- No word gives `InvalidInstruction` (41_decode_dispatch.md section 6, 60_exceptions.md section 1; the spec's decision
D20). -/
def Obligations.InvalidInstructionNeverReported : Prop :=
  ∀ (cfg : Config) (w : Word), decode cfg w ≠ .err .invalidInstruction

/-- The immediate is not validated: it goes to the instruction verbatim, and no outcome depends on it otherwise; the wire
it shares with `src2` is checked as `src2` (41_decode_dispatch.md rule R124). -/
def Obligations.ImmediateTakenVerbatim : Prop :=
  ∀ (cfg : Config) (w : Word),
    (∀ i, decode cfg w = .ok i → i.imm.toNat = bitRun w 16 16)
      ∧ (∀ v, opcodeField v = opcodeField w → destField v = destField w → src1Field v = src1Field w →
          src2Field cfg.src2Layout v = src2Field cfg.src2Layout w →
          (∀ i, decode cfg w = .ok i →
              decode cfg v = .ok (.loadImmediate i.dest i.src1 i.src2 (immField v)))
            ∧ (∀ n, decode cfg w = .err (.invalidRegister n) → decode cfg v = .err (.invalidRegister n)))
      ∧ ((optable (opcodeField w)).isSome → (regmap cfg.isaRev (destField w)).isSome →
          (regmap cfg.isaRev (src1Field w)).isSome → regmap cfg.isaRev (src2Field cfg.src2Layout w) = none →
          decode cfg w = .err (.invalidRegister (src2Field cfg.src2Layout w)))

/-- The two readings of bit 16 give every word with bit 16 clear the same result, and under `REV_A` a word that
`OVERLAP4` accepts is accepted alike by `DISJOINT3` (92_eei_decisions.md D1). -/
def Obligations.LayoutsDifferOnlyThroughBit16 : Prop :=
  (∀ (rev : IsaRev) (w : Word), w.getLsbD 16 = false → decode ⟨rev, .overlap4⟩ w = decode ⟨rev, .disjoint3⟩ w)
    ∧ (∀ (w : Word) (i : Instr), decode ⟨.revA, .overlap4⟩ w = .ok i → decode ⟨.revA, .disjoint3⟩ w = .ok i)

/-- What `REV_A` accepts, `REV_B` accepts alike, whatever its two open numbers (92_eei_decisions.md D2, D3). -/
def Obligations.RevBExtendsRevA : Prop :=
  ∀ (layout : Src2Layout) (idRA idSP : RegNum) (w : Word) (i : Instr),
    decode ⟨.revA, layout⟩ w = .ok i → decode ⟨.revB idRA idSP, layout⟩ w = .ok i

/-! The ports (43_port_encoding.md: ports and codes are the spec's decision D7) -/

/-- The validator's ports (43_port_encoding.md section 3; decision D7): `valid_o` is the success of `resolve`, and for
`REV_A` the two outputs are the stated functions of the input wires. -/
def Obligations.ValidatorPortEquations : Prop :=
  (∀ (rev : IsaRev) (id : RegNum),
      (validatorPorts rev id).idI = id ∧ (validatorPorts rev id).validO = (resolve rev id).isOk
        ∧ (∀ r, resolve rev id = .ok r → num rev r = some (validatorPorts rev id).ridO)
        ∧ ((resolve rev id).isOk = false → (validatorPorts rev id).ridO = 0))
    ∧ (∀ id : RegNum,
        (validatorPorts .revA id).validO = (id.extractLsb' 1 3 == 0)
          ∧ (validatorPorts .revA id).ridO
              = 0b000#3 ++ BitVec.ofBool (id.getLsbD 0 && (validatorPorts .revA id).validO))

/-- The port equations agree with the abstract decoder, word by word and for both layouts (43_port_encoding.md section 4;
marked derived there). -/
def Obligations.PortEquationsRefineDecode : Prop :=
  ∀ (layout : Src2Layout) (w : Word), blockPorts ⟨.revA, layout⟩ w = some (portEquations layout w)

/-- Every word gives a valuation of the ports, and the abstract result is recovered from it (43_port_encoding.md section
4; marked derived there). -/
def Obligations.ResultReadBackFromPorts : Prop :=
  ∀ (cfg : Config) (w : Word), ∃ p, blockPorts cfg w = some p ∧ readPorts cfg p = some (decode cfg w)

/-- The valuations of the ports that some word produces: the listed ones, less those whose immediate no word can hold
beside their `src2` number (43_port_encoding.md section 4, marked derived, read with 30_encoding.md section 5; log
entry 10). -/
def Obligations.ReachablePortValuations : Prop :=
  ∀ (cfg : Config) (p : OutPorts), cfg.valid = true →
    ((∃ w, blockPorts cfg w = some p) ↔
      ((listedOk cfg p = true ∧ bit16Agrees cfg.src2Layout p.src2O p.immO = true) ∨ listedErr cfg p = true))

/-- `ok_o` is 1 exactly when `err_kind_o` is the code of no error, and the code of `InvalidInstruction` is never driven
(43_port_encoding.md section 2; decisions D7 and D20). -/
def Obligations.OkFlagAndErrorKindAgree : Prop :=
  ∀ (cfg : Config) (w : Word) (p : OutPorts), blockPorts cfg w = some p →
    (p.okO = true ↔ p.errKindO = 0b00) ∧ p.errKindO ≠ 0b10

/-- An error delivers no part of an instruction (43_port_encoding.md section 2 and 41_decode_dispatch.md section 7;
decision D7). -/
def Obligations.NoPartialOutputOnError : Prop :=
  ∀ (cfg : Config) (w : Word) (e : Error), decode cfg w = .err e →
    ∃ p, blockPorts cfg w = some p ∧ p.okO = false ∧ p.opO = 0 ∧ p.destO = 0 ∧ p.src1O = 0 ∧ p.src2O = 0
      ∧ p.immO = 0

/-! The machine -/

/-- When the caller's next word decodes to an instruction, the step is `exec` of it, with that word on the input port, the
three validators at work on it and one word fewer to come (41_decode_dispatch.md section 5, 43_port_encoding.md section
3; the caller's list is the model's choice, log entry 2). -/
def Obligations.StepRunsTheDecodedInstruction : Prop :=
  ∀ (s : State) (i : Instr), decode Config.hardware (nextWord s) = .ok i →
    step s = exec i { s with
      wordI := nextWord s
      pending := s.pending.tail
      vDest := validatorPorts .revA (destField (nextWord s))
      vSrc1 := validatorPorts .revA (src1Field (nextWord s))
      vSrc2 := validatorPorts .revA (src2Field .overlap4 (nextWord s)) }

/-- When the caller's next word is an error, the step delivers it on the output ports with its code and payload, and goes
on (60_exceptions.md section 1 and section 3; codes by decision D7, the caller's list by log entry 2). -/
def Obligations.StepDeliversTheError : Prop :=
  ∀ (s : State) (e : Error), decode Config.hardware (nextWord s) = .err e →
    ∃ t, step s = .next t ∧ t.wordI = nextWord s ∧ t.pending = s.pending.tail
      ∧ t.vDest = validatorPorts .revA (destField (nextWord s))
      ∧ t.vSrc1 = validatorPorts .revA (src1Field (nextWord s))
      ∧ t.vSrc2 = validatorPorts .revA (src2Field .overlap4 (nextWord s))
      ∧ t.out.okO = false ∧ t.out.opO = 0 ∧ t.out.destO = 0 ∧ t.out.src1O = 0 ∧ t.out.src2O = 0 ∧ t.out.immO = 0
      ∧ (∀ w, e = .unknownInstruction w → t.out.errKindO = 0b01 ∧ t.out.errInfoO = w ∧ w = nextWord s)
      ∧ (∀ n, e = .invalidRegister n → t.out.errKindO = 0b11 ∧ t.out.errInfoO.toNat = n.toNat)

/-- `LoadImmediate` completes, on every state and for every operand this hardware has, with the result on the output ports
(42_load_immediate.md section 1; on the ports 43_port_encoding.md section 2, decision D7). That this is the whole effect
is read from the spec (log entry 4). The immediate is any: a term with an odd one, which no word of this hardware decodes
to (30_encoding.md section 5), is delivered like any other by the model's choice (log entry 7). -/
def Obligations.LoadImmediateCompletes : Prop :=
  ∀ (dest src1 src2 : RegisterID) (imm : Imm16) (s : State),
    dest ∈ [RegisterID.x0, .a0] → src1 ∈ [RegisterID.x0, .a0] → src2 ∈ [RegisterID.x0, .a0] →
    exec (.loadImmediate dest src1 src2 imm) s
      = .next { s with out :=
          { okO := true, errKindO := 0b00, errInfoO := 0, opO := 0b00001
            destO := if dest = .x0 then 0 else 1
            src1O := if src1 = .x0 then 0 else 1
            src2O := if src2 = .x0 then 0 else 1
            immO := imm } }

/-- The frame of `LoadImmediate`: the input port, the validators' wires and the caller's words are unchanged; the block
has no register, flag or memory to change (42_load_immediate.md section 1, section 2). -/
def Obligations.LoadImmediateFrame : Prop :=
  ∀ (dest src1 src2 : RegisterID) (imm : Imm16) (s t : State),
    exec (.loadImmediate dest src1 src2 imm) s = .next t →
    t.wordI = s.wordI ∧ t.pending = s.pending ∧ t.vDest = s.vDest ∧ t.vSrc1 = s.vSrc1 ∧ t.vSrc2 = s.vSrc2

/-- A term that names `RA` or `SP` is no instruction of this hardware (10_state.md section 1, section 2; decision D2): the
meaning refuses it by name, whatever its other operands. The refusal is the model's choice (log entry 7). -/
def Obligations.NonMemberRegisterRefused : Prop :=
  ∀ (dest src1 src2 : RegisterID) (imm : Imm16) (s : State),
    (dest ∈ [RegisterID.ra, .sp] ∨ src1 ∈ [RegisterID.ra, .sp] ∨ src2 ∈ [RegisterID.ra, .sp]) →
    exec (.loadImmediate dest src1 src2 imm) s = .refused .registerNotInRevision

/-- There is no state and no word on which the machine halts or gives no answer (41_decode_dispatch.md rule R132). -/
def Obligations.EveryStepAnswers : Prop := ∀ s : State, Answers (step s)

/-- After every step, from whatever state, all wires stand at the function of the word on the input port
(70_reset_and_hazards.md section 1, section 4; ports by decision D7, settling by decision D9). -/
def Obligations.EveryStepSettlesTheWires : Prop :=
  ∀ s t : State, step s = .next t → Settled Config.hardware t

/-- The reset state is settled: its outputs are the function of the word on the input port, as at every other moment
(70_reset_and_hazards.md section 1). That the word is zero and nothing is pending is the model's choice (log entries 2
and 3). -/
def Obligations.ResetStateIsSettled : Prop :=
  Settled Config.hardware State.reset ∧ State.reset.wordI = 0 ∧ State.reset.pending = []

/-- Deterministic and history-free (41_decode_dispatch.md rule R133): two states whose next word is the same, whatever
words and errors went before, step to the same wires. -/
def Obligations.ResultIndependentOfHistory : Prop :=
  ∀ s t : State, nextWord s = nextWord t →
    ∃ s' t', step s = .next s' ∧ step t = .next t' ∧ s'.wordI = t'.wordI ∧ s'.out = t'.out
      ∧ s'.vDest = t'.vDest ∧ s'.vSrc1 = t'.vSrc1 ∧ s'.vSrc2 = t'.vSrc2

/-- Consecutive words are independent (70_reset_and_hazards.md rule R217): along every run, the outputs after the k-th
word are what that word gives alone, whatever words came before it, and the words still to come are untouched. -/
def Obligations.RunGivesEachWordItsOwnResult : Prop :=
  ∀ (s : State) (k : Nat) (w : Word), s.pending[k]? = some w →
    ∃ t : State, Sys2Proof.core.run (k + 1) s = .next t ∧ t.wordI = w
      ∧ blockPorts Config.hardware w = some t.out ∧ t.pending = s.pending.drop (k + 1)

/-- An error leaves no trace, and neither does a success: after one word, the next gives what it would have given in the
first word's place (60_exceptions.md section 3; decision D25). -/
def Obligations.EarlierWordLeavesNoTrace : Prop :=
  ∀ (s : State) (w v : Word) (rest : List Word), s.pending = w :: v :: rest →
    Sys2Proof.core.run 2 s = step { s with pending := v :: rest }

/-- Idempotent in effect (41_decode_dispatch.md section 7): presenting the word that is already on the port changes no
wire. That the caller's list loses its first word, and that a step with none pending presents the word on the port again,
are the model's choice (log entry 2). -/
def Obligations.PresentingTheSameWordChangesNothing : Prop :=
  ∀ s : State, Settled Config.hardware s → nextWord s = s.wordI →
    step s = .next { s with pending := s.pending.tail }

/-- When the caller presents no other word, every further step gives what the first gave (the model's choice of what a
step without a new word is, log entry 2). -/
def Obligations.WordHeldOnThePortKeepsItsResult : Prop :=
  ∀ (s : State) (k : Nat), s.pending = [] → Sys2Proof.core.run (k + 1) s = step s

/-- The validators work on every word, also on one whose opcode is unmapped (43_port_encoding.md section 3; decision
D21). -/
def Obligations.ValidatorsWorkOnUnmappedWords : Prop :=
  ∀ s : State, bitRun (nextWord s) 0 5 ≠ 1 →
    ∃ t, step s = .next t ∧ t.out.errKindO = 0b01
      ∧ t.vDest = validatorPorts .revA (BitVec.ofNat 4 (bitRun (nextWord s) 5 4))
      ∧ t.vSrc1 = validatorPorts .revA (BitVec.ofNat 4 (bitRun (nextWord s) 9 4))
      ∧ t.vSrc2 = validatorPorts .revA (BitVec.ofNat 4 (bitRun (nextWord s) 13 4))
end

