-- ==== Sys2Proof/Laws/Operands.lean ====
section
/-! SUPPORT. The register table and its inverse, and everything `resolve` can answer. -/
namespace Sys2Proof

/-- A number that `REGMAP` maps is the number of what it maps to. -/
theorem num_of_regmap {rev : IsaRev} {n : RegNum} {r : RegisterID} (h : regmap rev n = some r) :
    num rev r = some n := by
  unfold regmap at h
  split at h
  · cases h; subst n; cases rev <;> rfl
  · split at h
    · cases h; subst n; cases rev <;> rfl
    · cases rev with
      | revA => cases h
      | revB idRA idSP =>
        simp only at h
        split at h
        · cases h; subst n; rfl
        · split at h
          · cases h; subst n; rfl
          · cases h

/-- With valid numbers, `REGMAP` maps every register's number to it. -/
theorem regmap_of_num {rev : IsaRev} (valid : rev.valid = true) {n : RegNum} {r : RegisterID}
    (h : num rev r = some n) : regmap rev n = some r := by
  cases rev with
  | revA => cases r <;> cases h <;> rfl
  | revB idRA idSP =>
    simp only [IsaRev.valid, Bool.and_eq_true, decide_eq_true_eq] at valid
    obtain ⟨⟨ra, sp⟩, ne⟩ := valid
    have above : ∀ m : RegNum, 2 ≤ m.toNat → m ≠ 0#4 ∧ m ≠ 1#4 := by decide
    cases r <;> cases h <;> simp [regmap, above _ ra, above _ sp, Ne.symm ne]

/-- A register has a number exactly when it is a member of the revision. -/
theorem num_isSome_iff (rev : IsaRev) (r : RegisterID) : (num rev r).isSome ↔ r ∈ rev.members := by
  cases rev <;> cases r <;> simp [num, IsaRev.members]

/-- Everything `resolve` can answer. -/
theorem resolve_cases (rev : IsaRev) (id : RegNum) :
    (∃ r, regmap rev id = some r ∧ resolve rev id = .ok r)
      ∨ (regmap rev id = none ∧ resolve rev id = .err (.invalidRegister id)) := by
  unfold resolve
  cases h : regmap rev id with
  | none => exact .inr ⟨rfl, rfl⟩
  | some r => exact .inl ⟨r, rfl, rfl⟩

end Sys2Proof
end

