-- ==== Sys2Proof/Laws/Decode.lean ====
section
/-! SUPPORT. What the opcode table maps, everything `decode` can answer, and when `enc` is defined. -/
namespace Sys2Proof

theorem optable_eq_some {o : Opcode} {op : Operation} : optable o = some op ↔ o = opcodeOf op := by
  cases op
  by_cases h : o = 1#5 <;> simp [optable, opcodeOf, h]

/-- Everything `decode` can answer, with the guards of each answer. -/
theorem decode_cases (cfg : Config) (w : Word) :
    (optable (opcodeField w) = none ∧ decode cfg w = .err (.unknownInstruction w))
      ∨ (∃ op, optable (opcodeField w) = some op ∧
          ((regmap cfg.isaRev (destField w) = none
              ∧ decode cfg w = .err (.invalidRegister (destField w)))
            ∨ (∃ d, regmap cfg.isaRev (destField w) = some d ∧
                ((regmap cfg.isaRev (src1Field w) = none
                    ∧ decode cfg w = .err (.invalidRegister (src1Field w)))
                  ∨ (∃ s1, regmap cfg.isaRev (src1Field w) = some s1 ∧
                      ((regmap cfg.isaRev (src2Field cfg.src2Layout w) = none
                          ∧ decode cfg w = .err (.invalidRegister (src2Field cfg.src2Layout w)))
                        ∨ (∃ s2, regmap cfg.isaRev (src2Field cfg.src2Layout w) = some s2
                            ∧ decode cfg w = .ok (assemble op d s1 s2 (immField w))))))))) := by
  unfold decode resolve
  cases optable (opcodeField w) with
  | none => exact .inl ⟨rfl, rfl⟩
  | some op =>
    refine .inr ⟨op, rfl, ?_⟩
    cases regmap cfg.isaRev (destField w) with
    | none => exact .inl ⟨rfl, rfl⟩
    | some d =>
      refine .inr ⟨d, rfl, ?_⟩
      cases regmap cfg.isaRev (src1Field w) with
      | none => exact .inl ⟨rfl, rfl⟩
      | some s1 =>
        refine .inr ⟨s1, rfl, ?_⟩
        cases regmap cfg.isaRev (src2Field cfg.src2Layout w) with
        | none => exact .inl ⟨rfl, rfl⟩
        | some s2 => exact .inr ⟨s2, rfl, rfl⟩

/-- The value of two fields side by side. -/
theorem toNat_append_eq {m n : Nat} (x : BitVec m) (y : BitVec n) :
    (x ++ y).toNat = x.toNat * 2 ^ n + y.toNat := by
  rw [BitVec.toNat_append, ← Nat.shiftLeft_add_eq_or_of_lt y.isLt, Nat.shiftLeft_eq]

/-- The value of the concatenated word, each field at its place. -/
theorem encWord_toNat (o : Opcode) (d s1 s2 : RegNum) (i : Imm16) :
    (encWord o d s1 s2 i).toNat
      = o.toNat + 2 ^ 5 * d.toNat + 2 ^ 9 * s1.toNat + 2 ^ 13 * (s2.toNat % 2 ^ 3) + 2 ^ 16 * i.toNat := by
  change BitVec.toNat (i ++ s2.extractLsb' 0 3 ++ s1 ++ d ++ o) = _
  simp only [toNat_append_eq, BitVec.extractLsb'_toNat, Nat.shiftRight_zero]
  omega

theorem enc_isSome_iff (layout : Src2Layout) (o : Opcode) (d s1 s2 : RegNum) (i : Imm16) :
    (enc layout o d s1 s2 i).isSome ↔ bit16Agrees layout s2 i = true := by
  unfold enc
  split <;> simp_all

end Sys2Proof
end

