-- ==== Sys2Proof/Laws/State.lean ====
section
/-! SUPPORT. One lemma per field for each update of the state. -/
namespace Sys2Proof.Machine

variable (w : Word) (p : OutPorts) (s : State)

@[simp] theorem applyWord_wordI : (applyWord w s).wordI = w := rfl
@[simp] theorem applyWord_pending : (applyWord w s).pending = s.pending := rfl
@[simp] theorem applyWord_out : (applyWord w s).out = s.out := rfl
@[simp] theorem applyWord_vDest :
    (applyWord w s).vDest = validatorPorts Config.hardware.isaRev (destField w) := rfl
@[simp] theorem applyWord_vSrc1 :
    (applyWord w s).vSrc1 = validatorPorts Config.hardware.isaRev (src1Field w) := rfl
@[simp] theorem applyWord_vSrc2 :
    (applyWord w s).vSrc2
      = validatorPorts Config.hardware.isaRev (src2Field Config.hardware.src2Layout w) := rfl

@[simp] theorem driveOutputs_wordI : (driveOutputs p s).wordI = s.wordI := rfl
@[simp] theorem driveOutputs_pending : (driveOutputs p s).pending = s.pending := rfl
@[simp] theorem driveOutputs_out : (driveOutputs p s).out = p := rfl
@[simp] theorem driveOutputs_vDest : (driveOutputs p s).vDest = s.vDest := rfl
@[simp] theorem driveOutputs_vSrc1 : (driveOutputs p s).vSrc1 = s.vSrc1 := rfl
@[simp] theorem driveOutputs_vSrc2 : (driveOutputs p s).vSrc2 = s.vSrc2 := rfl

@[simp] theorem nextWord_of_nil (h : s.pending = []) : nextWord s = s.wordI := by
  simp [nextWord, h]

@[simp] theorem nextWord_of_cons {v : Word} {rest : List Word} (h : s.pending = v :: rest) :
    nextWord s = v := by
  simp [nextWord, h]

@[simp] theorem presentNext_wordI : (presentNext s).wordI = nextWord s := rfl
@[simp] theorem presentNext_pending : (presentNext s).pending = s.pending.tail := rfl
@[simp] theorem presentNext_vDest :
    (presentNext s).vDest = validatorPorts Config.hardware.isaRev (destField (nextWord s)) := rfl
@[simp] theorem presentNext_vSrc1 :
    (presentNext s).vSrc1 = validatorPorts Config.hardware.isaRev (src1Field (nextWord s)) := rfl
@[simp] theorem presentNext_vSrc2 :
    (presentNext s).vSrc2
      = validatorPorts Config.hardware.isaRev (src2Field Config.hardware.src2Layout (nextWord s)) := rfl
@[simp] theorem presentNext_out : (presentNext s).out = s.out := rfl

end Sys2Proof.Machine
end

