-- ==== Sys2Proof/Laws/Ops.lean ====
section
/-! SUPPORT. Everything the two deliveries can do. -/
namespace Sys2Proof.Machine

/-- Delivering an instruction: with a number for each register, the outputs carry them and no other wire moves;
otherwise it refuses. -/
theorem deliverInstruction_cases (i : Instr) (s : State) :
    (∃ d s1 s2, num Config.hardware.isaRev i.dest = some d ∧ num Config.hardware.isaRev i.src1 = some s1
        ∧ num Config.hardware.isaRev i.src2 = some s2
        ∧ deliverInstruction i s
            = .next { s with out := ⟨true, 0b00, 0, opcodeOf i.operation, d, s1, s2, i.imm⟩ })
      ∨ deliverInstruction i s = .refused .registerNotInRevision := by
  unfold deliverInstruction okPorts
  cases num Config.hardware.isaRev i.dest with
  | none => exact .inr rfl
  | some d =>
    cases num Config.hardware.isaRev i.src1 with
    | none => exact .inr rfl
    | some s1 =>
      cases num Config.hardware.isaRev i.src2 with
      | none => exact .inr rfl
      | some s2 => exact .inl ⟨d, s1, s2, rfl, rfl, rfl, rfl⟩

/-- Delivering an error moves the outputs and no other wire. -/
theorem deliverError_eq (e : Error) (s : State) : deliverError e s = { s with out := errPorts e } := rfl

end Sys2Proof.Machine
end

