-- ==== Sys2Proof/Laws/PerInstr.lean ====
section
/-! SUPPORT. The families of statements made per instruction (LAWS.json). -/
namespace Sys2Proof.Laws

/-- The registers of a well-formed instruction have numbers, so its outputs and its word can be written. -/
def RegistersNumbered.Statement (i : Instr) : Prop :=
  ∀ cfg : Config, i.wellFormed cfg = true →
    (num cfg.isaRev i.dest).isSome ∧ (num cfg.isaRev i.src1).isSome ∧ (num cfg.isaRev i.src2).isSome

theorem RegistersNumbered.loadImmediate (dest src1 src2 : RegisterID) (imm : Imm16) :
    RegistersNumbered.Statement (.loadImmediate dest src1 src2 imm) := by
  intro cfg h
  simp only [Instr.wellFormed, registerInRevision, Bool.and_eq_true, decide_eq_true_eq] at h
  simp only [num_isSome_iff]
  exact ⟨h.1.1.1, h.1.1.2, h.1.2⟩

end Sys2Proof.Laws
end

