-- ==== Sys2Proof/Laws/Ports.lean ====
section
/-! SUPPORT. What the ports carry for a result, and when an instruction has ports. -/
namespace Sys2Proof.Machine

/-- A register number sent on `err_info_o` is read back whole. -/
theorem errInfo_readBack (n : RegNum) : (errInfo (.invalidRegister n)).extractLsb' 0 4 = n := by
  revert n; decide

/-- The ports of an instruction whose registers have numbers. -/
theorem okPorts_of_nums {cfg : Config} {i : Instr} {d s1 s2 : RegNum} (hd : num cfg.isaRev i.dest = some d)
    (h1 : num cfg.isaRev i.src1 = some s1) (h2 : num cfg.isaRev i.src2 = some s2) :
    okPorts cfg i = some ⟨true, 0b00, 0, opcodeOf i.operation, d, s1, s2, i.imm⟩ := by
  simp only [okPorts, hd, h1, h2]; rfl

/-- Everything `validatorPorts` can give. -/
theorem validatorPorts_cases (rev : IsaRev) (id : RegNum) :
    (∃ r, regmap rev id = some r ∧ validatorPorts rev id = ⟨id, true, id⟩)
      ∨ (regmap rev id = none ∧ validatorPorts rev id = ⟨id, false, 0⟩) := by
  unfold validatorPorts
  cases regmap rev id with
  | none => exact .inr ⟨rfl, rfl⟩
  | some r => exact .inl ⟨r, rfl, rfl⟩

end Sys2Proof.Machine
end

