-- ==== Sys2Proof/Laws/Step.lean ====
section
/-! SUPPORT. Everything a step can do, and a run from its first step on. -/
namespace Sys2Proof.Machine

/-- A step delivers the instruction of the caller's next word, or its error. -/
theorem step_cases (s : State) :
    (∃ i, decode Config.hardware (nextWord s) = .ok i ∧ step s = deliverInstruction i (presentNext s))
      ∨ (∃ e, decode Config.hardware (nextWord s) = .err e
            ∧ step s = .next (deliverError e (presentNext s))) := by
  unfold step
  simp only [presentNext_wordI]
  cases decode Config.hardware (nextWord s) with
  | ok i => cases i; exact .inl ⟨_, rfl, rfl⟩
  | err e => exact .inr ⟨e, rfl, rfl⟩

@[simp] theorem run_zero (s : State) : Sys2Proof.core.run 0 s = .next s := rfl

/-- A run whose first step answers goes on from there. -/
theorem run_of_next {s t : State} (h : step s = .next t) (k : Nat) :
    Sys2Proof.core.run (k + 1) s = Sys2Proof.core.run k t := by
  have h' : Sys2Proof.core.step s = .next t := h
  simp only [Host.Core.run, h']

end Sys2Proof.Machine
end

