-- ==== Sys2Proof/Tests/Slice0.lean ====
section
/-! SUPPORT. Small tests. Every expected value stands in 95_test_vectors.md, in the worked examples of 43_port_encoding.md
or in the cited rule. The theorems named witness_… show, for each statement with hypotheses, a case that meets them. -/
namespace Sys2Proof.Tests

open Sys2Proof Sys2Proof.Machine

/-! The other configurations, as 95_test_vectors.md instantiates them. -/

def disjoint : Config := ⟨.revA, .disjoint3⟩
def revB23 : Config := ⟨.revB 2 3, .overlap4⟩

/-- The outputs after one step on a word, from reset. -/
def outAfter (w : Nat) : Option OutPorts :=
  match step (State.reset.withFetchWord 32 w) with
  | .next t => some t.out
  | .fault _ => none
  | .refused _ => none

/-- A state whose caller presents these words. -/
def presenting (ws : List Word) : State := { State.reset with pending := ws }

/-! WellFormed: one ill-formed term per check. -/

theorem test_wellFormed_accepts :
    (Instr.loadImmediate .a0 .x0 .x0 2).wellFormed Config.hardware = true := by decide
theorem test_wellFormed_refuses_dest :
    (Instr.loadImmediate .ra .x0 .x0 2).wellFormed Config.hardware = false := by decide
theorem test_wellFormed_refuses_src1 :
    (Instr.loadImmediate .a0 .sp .x0 2).wellFormed Config.hardware = false := by decide
theorem test_wellFormed_refuses_src2 :
    (Instr.loadImmediate .a0 .x0 .ra 2).wellFormed Config.hardware = false := by decide
/-- 30_encoding.md rule R84: no word decodes to an odd immediate under `OVERLAP4`. -/
theorem test_wellFormed_refuses_odd_immediate :
    (Instr.loadImmediate .a0 .x0 .x0 3).wellFormed Config.hardware = false
      ∧ (Instr.loadImmediate .a0 .x0 .x0 3).wellFormed disjoint = true := by decide
/-- 30_encoding.md rule R89: under `DISJOINT3` a number above 7 has no place in `src2`. -/
theorem test_wellFormed_refuses_wide_src2 :
    (Instr.loadImmediate .x0 .x0 .sp 0).wellFormed ⟨.revB 2 9, .disjoint3⟩ = false
      ∧ (Instr.loadImmediate .sp .sp .x0 0).wellFormed ⟨.revB 2 9, .disjoint3⟩ = true := by decide
/-- 40_register_validator.md rule R103 (d). -/
theorem test_valid_refuses :
    (IsaRev.revB 1 3).valid = false ∧ (IsaRev.revB 3 0).valid = false ∧ (IsaRev.revB 3 3).valid = false
      ∧ (IsaRev.revB 2 15).valid = true := by decide

/-! Field extraction, 95_test_vectors.md section 2. -/

theorem test_fields_bit16_probe :
    fields Config.hardware 0x00010000 = ⟨0, 0, 0, 8, 1⟩ ∧ fields disjoint 0x00010000 = ⟨0, 0, 0, 0, 1⟩ := by decide
theorem test_fields_mixed :
    fields Config.hardware 0x12345678 = ⟨24, 3, 11, 2, 0x1234⟩
      ∧ fields disjoint 0xFFFFFFFF = ⟨31, 15, 15, 7, 0xFFFF⟩ := by decide

/-! Decoding, 95_test_vectors.md sections 1 and 4. The first word is written out bit by bit: imm, src2[2:0], src1, dest,
opcode. -/

theorem test_decode_S1 :
    decode Config.hardware 0b0000000000000010_000_0000_0001_00001 = .ok (.loadImmediate .a0 .x0 .x0 2)
      ∧ decodeTableWord 32 0x00020021 = some (.loadImmediate .a0 .x0 .x0 2) := by decide
theorem test_decode_each_register_field :
    decode Config.hardware 0x00000221 = .ok (.loadImmediate .a0 .a0 .x0 0)
      ∧ decode Config.hardware 0x00002001 = .ok (.loadImmediate .x0 .x0 .a0 0)
      ∧ decode Config.hardware 0xFFFE0001 = .ok (.loadImmediate .x0 .x0 .x0 0xFFFE) := by decide
theorem test_decode_S3_both_layouts :
    decode Config.hardware 0xFFFF0001 = .err (.invalidRegister 8)
      ∧ decode disjoint 0xFFFF0001 = .ok (.loadImmediate .x0 .x0 .x0 0xFFFF) := by decide
theorem test_decode_unknown :
    decode Config.hardware 0x00000011 = .err (.unknownInstruction 0x00000011)
      ∧ decode Config.hardware 0xFFFFFFFF = .err (.unknownInstruction 0xFFFFFFFF) := by decide
theorem test_decode_priority :
    decode Config.hardware 0x00000EA1 = .err (.invalidRegister 5)
      ∧ decode Config.hardware 0x00000E21 = .err (.invalidRegister 7)
      ∧ decode Config.hardware 0x0000A221 = .err (.invalidRegister 5)
      ∧ decode Config.hardware 0x0000AEA0 = .err (.unknownInstruction 0x0000AEA0) := by decide
theorem test_decode_payload_by_layout :
    decode Config.hardware 0x0001E001 = .err (.invalidRegister 15)
      ∧ decode disjoint 0x0001E001 = .err (.invalidRegister 7) := by decide
theorem test_decode_revB :
    decode revB23 0x00006441 = .ok (.loadImmediate .ra .ra .sp 0)
      ∧ decode revB23 0x00000081 = .err (.invalidRegister 4)
      ∧ decode revB23 0x00036461 = .err (.invalidRegister 11) := by decide

/-! The encoder, 95_test_vectors.md section 6, P1. -/

theorem test_encode_P1 :
    encode Config.hardware (.loadImmediate .x0 .a0 .x0 0x0100) = some 0x01000201
      ∧ encode Config.hardware (.loadImmediate .a0 .a0 .a0 0xFFFE) = some 0xFFFE2221
      ∧ encode Config.hardware (.loadImmediate .a0 .x0 .x0 3) = none := by decide

/-! One step, at the ports: 95_test_vectors.md section 5. -/

theorem test_step_ok :
    outAfter 0x00020021 = some ⟨true, 0b00, 0, 1, 1, 0, 0, 0x0002⟩
      ∧ outAfter 0xFFFE2221 = some ⟨true, 0b00, 0, 1, 1, 1, 1, 0xFFFE⟩ := by decide
theorem test_step_err :
    outAfter 0xFFFFFFFF = some ⟨false, 0b01, 0xFFFFFFFF, 0, 0, 0, 0, 0⟩
      ∧ outAfter 0x0000AEA1 = some ⟨false, 0b11, 5, 0, 0, 0, 0, 0⟩
      ∧ outAfter 0xFFFF0001 = some ⟨false, 0b11, 8, 0, 0, 0, 0, 0⟩ := by decide
theorem test_portEquations :
    portEquations .overlap4 0x00000401 = ⟨false, 0b11, 2, 0, 0, 0, 0, 0⟩
      ∧ portEquations .disjoint3 0x0001E001 = ⟨false, 0b11, 7, 0, 0, 0, 0, 0⟩
      ∧ portEquations .disjoint3 0xFFFF0001 = ⟨true, 0b00, 0, 1, 0, 0, 0, 0xFFFF⟩ := by decide
theorem test_validatorPorts :
    validatorPorts .revA 1 = ⟨1, true, 1⟩ ∧ validatorPorts .revA 2 = ⟨2, false, 0⟩ := by decide

/-! Witnesses. -/

theorem witness_layouts : Config.hardware.src2Layout = .overlap4 ∧ disjoint.src2Layout = .disjoint3 := by decide
theorem witness_FieldsDetermineTheWord : fields disjoint 0x12345678 = fields disjoint 0x12345678 := by decide
theorem witness_EncIsTheInverseOfFields :
    bit16Agrees .overlap4 8 0xFFFF = true ∧ bit16Agrees .overlap4 7 0xFFFF = false
      ∧ bit16Agrees .disjoint3 7 0xFFFF = true ∧ bit16Agrees .disjoint3 8 0 = false := by decide
theorem witness_DecodeReadsBackEncode :
    Config.hardware.valid = true ∧ (Instr.loadImmediate .a0 .x0 .a0 0xFFFE).wellFormed Config.hardware = true
      ∧ revB23.valid = true ∧ (Instr.loadImmediate .sp .ra .sp 0).wellFormed revB23 = true := by decide
theorem witness_EncodeRebuildsTheLegalWord :
    decode Config.hardware 0xFFFE2221 = .ok (.loadImmediate .a0 .a0 .a0 0xFFFE) := by decide
theorem witness_ResolveMapsOrRejects :
    regmap .revA 1 = some .a0 ∧ regmap .revA 2 = none ∧ regmap (.revB 2 3) 3 = some .sp := by decide
theorem witness_ResolveTableRevA : 2 ≤ (2#4).toNat ∧ 2 ≤ (15#4).toNat := by decide
theorem witness_RegisterTableConstraints :
    IsaRev.revA.valid = true ∧ (IsaRev.revB 2 15).valid = true ∧ resolve (.revB 2 15) 15 = .ok .sp := by decide
theorem witness_UnknownOpcodeJudgedFirst :
    optable (opcodeField 0x0000001F) = none
      ∧ decode revB23 0xFFFFFFE0 = .err (.unknownInstruction 0xFFFFFFE0)
      ∧ decode Config.hardware 0x00000041 = .err (.invalidRegister 2) := by decide
theorem witness_OnlyOpcodeOneIsMapped :
    bitRun 0xFFFFFFE1 0 5 = 1 ∧ bitRun 0x00000000 0 5 ≠ 1 ∧ bitRun 0x00000002 0 5 ≠ 1 ∧ bitRun 0x00000011 0 5 ≠ 1 := by
  decide
theorem witness_FirstInvalidFieldReported :
    (bitRun 0x00000041 0 5 = 1 ∧ 2 ≤ bitRun 0x00000041 5 4)
      ∧ (bitRun 0x00000421 0 5 = 1 ∧ bitRun 0x00000421 5 4 < 2 ∧ 2 ≤ bitRun 0x00000421 9 4)
      ∧ (bitRun 0x00004221 0 5 = 1 ∧ bitRun 0x00004221 5 4 < 2 ∧ bitRun 0x00004221 9 4 < 2
          ∧ 2 ≤ bitRun 0x00004221 13 4)
      ∧ (bitRun 0xFFFE2221 0 5 = 1 ∧ bitRun 0xFFFE2221 5 4 < 2 ∧ bitRun 0xFFFE2221 9 4 < 2
          ∧ bitRun 0xFFFE2221 13 4 < 2) := by decide
theorem witness_InvalidRegisterPayload :
    decode disjoint 0x0000E001 = .err (.invalidRegister 7) ∧ (7#4) ≠ destField 0x0000E001
      ∧ (7#4) ≠ src1Field 0x0000E001 := by decide
theorem witness_ImmediateTakenVerbatim :
    decode disjoint 0x00030021 = .ok (.loadImmediate .a0 .x0 .x0 3)
      ∧ opcodeField 0x12350021 = opcodeField 0x00030021 ∧ destField 0x12350021 = destField 0x00030021
      ∧ src1Field 0x12350021 = src1Field 0x00030021
      ∧ src2Field .disjoint3 0x12350021 = src2Field .disjoint3 0x00030021 := by decide
theorem witness_ImmediateTakenVerbatim_errors :
    decode disjoint 0x00000041 = .err (.invalidRegister 2)
      ∧ (optable (opcodeField 0x00004001)).isSome = true ∧ (regmap .revA (destField 0x00004001)).isSome = true
      ∧ (regmap .revA (src1Field 0x00004001)).isSome = true
      ∧ regmap .revA (src2Field .overlap4 0x00004001) = none := by decide
theorem witness_LayoutsDifferOnlyThroughBit16 :
    (0xFFFE0001#32).getLsbD 16 = false
      ∧ decode ⟨.revA, .overlap4⟩ 0xFFFE0001 = .ok (.loadImmediate .x0 .x0 .x0 0xFFFE) := by decide
theorem witness_RevBExtendsRevA : decode ⟨.revA, .disjoint3⟩ 0x00010001 = .ok (.loadImmediate .x0 .x0 .x0 1) := by decide
theorem witness_ValidatorPortEquations :
    resolve (.revB 2 3) 3 = .ok .sp ∧ (resolve .revA 15).isOk = false := by decide
theorem witness_ReachablePortValuations :
    listedOk Config.hardware ⟨true, 0, 0, 1, 1, 0, 1, 2⟩ = true ∧ bit16Agrees .overlap4 1 2 = true
      ∧ listedErr Config.hardware ⟨false, 3, 15, 0, 0, 0, 0, 0⟩ = true
      ∧ listedErr Config.hardware ⟨false, 1, 0xFFFFFFFF, 0, 0, 0, 0, 0⟩ = true := by decide
/-- A valuation on the list of rule R169 that no word produces (log entry 10). -/
theorem witness_listed_odd_immediate :
    listedOk Config.hardware ⟨true, 0, 0, 1, 0, 0, 0, 1⟩ = true ∧ bit16Agrees .overlap4 0 1 = false := by decide
theorem witness_OkFlagAndErrorKindAgree :
    blockPorts Config.hardware 0x00000401 = some ⟨false, 3, 2, 0, 0, 0, 0, 0⟩ := by decide
theorem witness_StepRunsTheDecodedInstruction :
    decode Config.hardware (nextWord (presenting [0x00020021, 0])) = .ok (.loadImmediate .a0 .x0 .x0 2) := by decide
theorem witness_StepDeliversTheError :
    decode Config.hardware (nextWord (presenting [0x00020020])) = .err (.unknownInstruction 0x00020020)
      ∧ decode Config.hardware (nextWord (presenting [0x000001E1])) = .err (.invalidRegister 15) := by decide
theorem witness_LoadImmediateCompletes :
    RegisterID.x0 ∈ [RegisterID.x0, .a0] ∧ RegisterID.a0 ∈ [RegisterID.x0, .a0] := by decide
theorem witness_LoadImmediateFrame :
    exec (.loadImmediate .x0 .a0 .a0 7) State.reset
      = .next { State.reset with out := ⟨true, 0, 0, 1, 0, 1, 1, 7⟩ } := rfl
theorem witness_NonMemberRegisterRefused :
    RegisterID.ra ∈ [RegisterID.ra, .sp] ∧ RegisterID.sp ∈ [RegisterID.ra, .sp] := by decide
theorem witness_EveryStepSettlesTheWires :
    step (presenting [0x00020021])
      = .next ⟨0x00020021, [], ⟨1, true, 1⟩, ⟨0, true, 0⟩, ⟨0, true, 0⟩, ⟨true, 0, 0, 1, 1, 0, 0, 2⟩⟩ := rfl
theorem witness_ResultIndependentOfHistory :
    nextWord (presenting [0x00020021]) = nextWord { State.reset with wordI := 0x00020021, out := errPorts (.invalidRegister 2) }
      := by decide
theorem witness_RunGivesEachWordItsOwnResult :
    (presenting [0x00020021, 0xFFFFFFFF, 0x00000041]).pending[2]? = some 0x00000041 := by decide
theorem witness_EarlierWordLeavesNoTrace :
    (presenting [0x00020020, 0x00020021]).pending = 0x00020020 :: 0x00020021 :: [] := by decide
theorem witness_PresentingTheSameWordChangesNothing :
    Settled Config.hardware (presenting [0]) ∧ nextWord (presenting [0]) = (presenting [0]).wordI :=
  ⟨⟨rfl, rfl, rfl, rfl⟩, rfl⟩
theorem witness_WordHeldOnThePortKeepsItsResult : State.reset.pending = [] := by decide
theorem witness_ValidatorsWorkOnUnmappedWords : bitRun (nextWord (presenting [0xFFFFFFE0])) 0 5 ≠ 1 := by decide

end Sys2Proof.Tests
end

section
/-! PROOFS. The value of each extracted field as a run of bits (30_encoding.md). -/
namespace Sys2Proof.Machine

/-- Bit extraction, as the model's fields use it, has the value of the run of bits it names (00_scope.md rule R11). -/
theorem extractLsb'_toNat_eq_bitRun (w : Word) (lo n : Nat) :
    (w.extractLsb' lo n).toNat = bitRun w lo n := by
  rw [BitVec.extractLsb'_toNat, Nat.shiftRight_eq_div_pow, bitRun]

theorem opcodeField_toNat (w : Word) : (opcodeField w).toNat = bitRun w 0 5 :=
  extractLsb'_toNat_eq_bitRun w 0 5

theorem destField_toNat (w : Word) : (destField w).toNat = bitRun w 5 4 :=
  extractLsb'_toNat_eq_bitRun w 5 4

theorem src1Field_toNat (w : Word) : (src1Field w).toNat = bitRun w 9 4 :=
  extractLsb'_toNat_eq_bitRun w 9 4

theorem immField_toNat (w : Word) : (immField w).toNat = bitRun w 16 16 :=
  extractLsb'_toNat_eq_bitRun w 16 16

theorem src2Field_overlap4_toNat (w : Word) : (src2Field .overlap4 w).toNat = bitRun w 13 4 :=
  extractLsb'_toNat_eq_bitRun w 13 4

/-- Under `DISJOINT3` the three bits are widened to a register number, which keeps their value. -/
theorem src2Field_disjoint3_toNat (w : Word) : (src2Field .disjoint3 w).toNat = bitRun w 13 3 :=
  calc ((w.extractLsb' 13 3).setWidth 4).toNat
    _ = (w.extractLsb' 13 3).toNat := BitVec.toNat_setWidth_of_le (by decide)
    _ = bitRun w 13 3 := extractLsb'_toNat_eq_bitRun w 13 3

theorem fields_src2 (cfg : Config) (w : Word) : (fields cfg w).src2 = src2Field cfg.src2Layout w := rfl

/-- Settles O1, field by field; `src2` by the layout the configuration names. -/
theorem fieldsAreTheListedBitRuns : Obligations.FieldsAreTheListedBitRuns := by
  intro cfg w
  refine ⟨opcodeField_toNat w, destField_toNat w, src1Field_toNat w, immField_toNat w, fun h => ?_, fun h => ?_⟩
  · rw [fields_src2, h, src2Field_overlap4_toNat]
  · rw [fields_src2, h, src2Field_disjoint3_toNat]

end Sys2Proof.Machine
end

section
/-! PROOFS. What `resolve` answers to a number the register table maps, and to one it does not
(40_register_validator.md rule R104). -/
namespace Sys2Proof.Machine

theorem resolve_of_regmap_eq_some {rev : IsaRev} {id : RegNum} {r : RegisterID} (mapped : regmap rev id = some r) :
    resolve rev id = .ok r := by
  rw [resolve, mapped]

theorem resolve_of_regmap_eq_none {rev : IsaRev} {id : RegNum} (unmapped : regmap rev id = none) :
    resolve rev id = .err (.invalidRegister id) := by
  rw [resolve, unmapped]

/-- Settles O14: the table's two answers, each by its own rule for `resolve`. -/
theorem resolveMapsOrRejects : Obligations.ResolveMapsOrRejects :=
  fun _ _ => ⟨fun _ => resolve_of_regmap_eq_some, resolve_of_regmap_eq_none⟩

end Sys2Proof.Machine
end

section
/-! PROOFS. The answers of `decode`, each with the words that get it (41_decode_dispatch.md rule R125): one rule per
branch, then one equivalence per kind of answer. -/
namespace Sys2Proof.Machine

section Rules

variable {cfg : Config} {w : Word}

theorem decode_of_opcode_unmapped (unmapped : optable (opcodeField w) = none) :
    decode cfg w = .err (.unknownInstruction w) := by
  rw [decode, unmapped]

variable {op : Operation} {d s1 s2 : RegisterID} (opcode : optable (opcodeField w) = some op)
include opcode

theorem decode_of_dest_unmapped (unmapped : regmap cfg.isaRev (destField w) = none) :
    decode cfg w = .err (.invalidRegister (destField w)) := by
  simp only [decode, opcode, resolve_of_regmap_eq_none unmapped]

variable (dest : regmap cfg.isaRev (destField w) = some d)
include dest

theorem decode_of_src1_unmapped (unmapped : regmap cfg.isaRev (src1Field w) = none) :
    decode cfg w = .err (.invalidRegister (src1Field w)) := by
  simp only [decode, opcode, resolve_of_regmap_eq_some dest, resolve_of_regmap_eq_none unmapped]

variable (src1 : regmap cfg.isaRev (src1Field w) = some s1)
include src1

theorem decode_of_src2_unmapped (unmapped : regmap cfg.isaRev (src2Field cfg.src2Layout w) = none) :
    decode cfg w = .err (.invalidRegister (src2Field cfg.src2Layout w)) := by
  simp only [decode, opcode, resolve_of_regmap_eq_some dest, resolve_of_regmap_eq_some src1,
    resolve_of_regmap_eq_none unmapped]

theorem decode_of_all_mapped (src2 : regmap cfg.isaRev (src2Field cfg.src2Layout w) = some s2) :
    decode cfg w = .ok (assemble op d s1 s2 (immField w)) := by
  simp only [decode, opcode, resolve_of_regmap_eq_some dest, resolve_of_regmap_eq_some src1,
    resolve_of_regmap_eq_some src2]

end Rules

theorem decode_eq_unknownInstruction_iff (cfg : Config) (w v : Word) :
    decode cfg w = .err (.unknownInstruction v) ↔ optable (opcodeField w) = none ∧ v = w := by
  constructor
  · intro answer
    obtain ⟨unmapped, h⟩ | ⟨op, -, ⟨-, h⟩ | ⟨d, -, ⟨-, h⟩ | ⟨s1, -, ⟨-, h⟩ | ⟨s2, -, h⟩⟩⟩⟩ := decode_cases cfg w
      <;> cases h.symm.trans answer
    exact ⟨unmapped, rfl⟩
  · rintro ⟨unmapped, rfl⟩
    exact decode_of_opcode_unmapped unmapped

theorem decode_eq_invalidRegister_iff (cfg : Config) (w : Word) (n : RegNum) :
    decode cfg w = .err (.invalidRegister n) ↔
      (∃ op, optable (opcodeField w) = some op)
        ∧ ((regmap cfg.isaRev (destField w) = none ∧ n = destField w)
          ∨ (∃ d, regmap cfg.isaRev (destField w) = some d)
            ∧ ((regmap cfg.isaRev (src1Field w) = none ∧ n = src1Field w)
              ∨ (∃ s1, regmap cfg.isaRev (src1Field w) = some s1)
                ∧ regmap cfg.isaRev (src2Field cfg.src2Layout w) = none ∧ n = src2Field cfg.src2Layout w)) := by
  constructor
  · intro answer
    obtain ⟨-, h⟩ | ⟨op, ho, ⟨hd, h⟩ | ⟨d, hd, ⟨h1, h⟩ | ⟨s1, h1, ⟨h2, h⟩ | ⟨s2, -, h⟩⟩⟩⟩ := decode_cases cfg w
      <;> cases h.symm.trans answer
    · exact ⟨⟨op, ho⟩, .inl ⟨hd, rfl⟩⟩
    · exact ⟨⟨op, ho⟩, .inr ⟨⟨d, hd⟩, .inl ⟨h1, rfl⟩⟩⟩
    · exact ⟨⟨op, ho⟩, .inr ⟨⟨d, hd⟩, .inr ⟨⟨s1, h1⟩, h2, rfl⟩⟩⟩
  · rintro ⟨⟨op, ho⟩, ⟨hd, rfl⟩ | ⟨⟨d, hd⟩, ⟨h1, rfl⟩ | ⟨⟨s1, h1⟩, h2, rfl⟩⟩⟩
    · exact decode_of_dest_unmapped ho hd
    · exact decode_of_src1_unmapped ho hd h1
    · exact decode_of_src2_unmapped ho hd h1 h2

theorem decode_eq_ok_iff (cfg : Config) (w : Word) (i : Instr) :
    decode cfg w = .ok i ↔
      ∃ op d s1 s2, optable (opcodeField w) = some op ∧ regmap cfg.isaRev (destField w) = some d
        ∧ regmap cfg.isaRev (src1Field w) = some s1 ∧ regmap cfg.isaRev (src2Field cfg.src2Layout w) = some s2
        ∧ i = assemble op d s1 s2 (immField w) := by
  constructor
  · intro answer
    obtain ⟨-, h⟩ | ⟨op, ho, ⟨-, h⟩ | ⟨d, hd, ⟨-, h⟩ | ⟨s1, h1, ⟨-, h⟩ | ⟨s2, h2, h⟩⟩⟩⟩ := decode_cases cfg w
      <;> cases h.symm.trans answer
    exact ⟨op, d, s1, s2, ho, hd, h1, h2, rfl⟩
  · rintro ⟨op, d, s1, s2, ho, hd, h1, h2, rfl⟩
    exact decode_of_all_mapped ho hd h1 h2

end Sys2Proof.Machine
end

section
/-! PROOFS. The statements about the outcomes of `decode` (41_decode_dispatch.md section 4 to section 6). -/
namespace Sys2Proof.Machine

theorem isOk_iff_exists_ok {α : Type} (r : Result α) : r.isOk = true ↔ ∃ a, r = .ok a := by
  cases r <;> simp [Result.isOk]

/-- Settles O17: the words of each error kind, read off the equivalences. -/
theorem unknownOpcodeJudgedFirst : Obligations.UnknownOpcodeJudgedFirst := by
  refine fun cfg w => ⟨decode_of_opcode_unmapped, fun v => (decode_eq_unknownInstruction_iff cfg w v).mp, fun n h => ?_⟩
  obtain ⟨mapped, -⟩ := (decode_eq_invalidRegister_iff cfg w n).mp h
  exact Option.isSome_iff_exists.mpr mapped

theorem decode_isOk_iff (cfg : Config) (w : Word) :
    (decode cfg w).isOk = true ↔
      (optable (opcodeField w)).isSome ∧ (regmap cfg.isaRev (destField w)).isSome
        ∧ (regmap cfg.isaRev (src1Field w)).isSome ∧ (regmap cfg.isaRev (src2Field cfg.src2Layout w)).isSome := by
  simp only [isOk_iff_exists_ok, decode_eq_ok_iff, Option.isSome_iff_exists]
  constructor
  · rintro ⟨-, op, d, s1, s2, ho, hd, h1, h2, -⟩
    exact ⟨⟨op, ho⟩, ⟨d, hd⟩, ⟨s1, h1⟩, ⟨s2, h2⟩⟩
  · rintro ⟨⟨op, ho⟩, ⟨d, hd⟩, ⟨s1, h1⟩, ⟨s2, h2⟩⟩
    exact ⟨_, op, d, s1, s2, ho, hd, h1, h2, rfl⟩

theorem decode_is_some_invalidRegister_iff (cfg : Config) (w : Word) :
    (∃ n, decode cfg w = .err (.invalidRegister n)) ↔
      (optable (opcodeField w)).isSome
        ∧ (regmap cfg.isaRev (destField w) = none ∨ regmap cfg.isaRev (src1Field w) = none
          ∨ regmap cfg.isaRev (src2Field cfg.src2Layout w) = none) := by
  simp only [decode_eq_invalidRegister_iff, ← Option.isSome_iff_exists]
  constructor
  · rintro ⟨n, mapped, ⟨hd, -⟩ | ⟨-, ⟨h1, -⟩ | ⟨-, h2, -⟩⟩⟩
    · exact ⟨mapped, .inl hd⟩
    · exact ⟨mapped, .inr (.inl h1)⟩
    · exact ⟨mapped, .inr (.inr h2)⟩
  · rintro ⟨mapped, unmapped⟩
    cases hd : regmap cfg.isaRev (destField w) with
    | none => exact ⟨_, mapped, .inl ⟨rfl, rfl⟩⟩
    | some d =>
      cases h1 : regmap cfg.isaRev (src1Field w) with
      | none => exact ⟨_, mapped, .inr ⟨rfl, .inl ⟨rfl, rfl⟩⟩⟩
      | some s1 =>
        have h2 : regmap cfg.isaRev (src2Field cfg.src2Layout w) = none := by simpa [hd, h1] using unmapped
        exact ⟨_, mapped, .inr ⟨rfl, .inr ⟨rfl, h2, rfl⟩⟩⟩

/-- The three classes leave out no word: `InvalidInstruction` is no answer of `decode` (rule R129). -/
theorem decode_ok_or_unknownInstruction_or_invalidRegister (cfg : Config) (w : Word) :
    (decode cfg w).isOk = true ∨ decode cfg w = .err (.unknownInstruction w)
      ∨ ∃ n, decode cfg w = .err (.invalidRegister n) := by
  obtain ⟨-, h⟩ | ⟨op, -, ⟨-, h⟩ | ⟨d, -, ⟨-, h⟩ | ⟨s1, -, ⟨-, h⟩ | ⟨s2, -, h⟩⟩⟩⟩ := decode_cases cfg w
  · exact .inr (.inl h)
  · exact .inr (.inr ⟨_, h⟩)
  · exact .inr (.inr ⟨_, h⟩)
  · exact .inr (.inr ⟨_, h⟩)
  · exact .inl ((isOk_iff_exists_ok _).mpr ⟨_, h⟩)

/-- Settles O19: the condition of each class, and that the classes leave out no word. -/
theorem exactlyOneOutcomePerWord : Obligations.ExactlyOneOutcomePerWord :=
  fun cfg w => ⟨decode_isOk_iff cfg w, by simp [decode_eq_unknownInstruction_iff],
    decode_is_some_invalidRegister_iff cfg w, decode_ok_or_unknownInstruction_or_invalidRegister cfg w⟩

theorem imm_of_decode_eq_ok {cfg : Config} {w : Word} {i : Instr} (h : decode cfg w = .ok i) :
    i.imm = immField w := by
  obtain ⟨op, d, s1, s2, -, -, -, -, rfl⟩ := (decode_eq_ok_iff cfg w i).mp h
  rfl

section SameOtherFields

variable {cfg : Config} {w v : Word} (opcode : opcodeField v = opcodeField w) (dest : destField v = destField w)
  (src1 : src1Field v = src1Field w) (src2 : src2Field cfg.src2Layout v = src2Field cfg.src2Layout w)
include opcode dest src1 src2

/-- Beside the same other fields, another immediate changes the delivered immediate alone. -/
theorem decode_eq_ok_of_same_other_fields {i : Instr} (h : decode cfg w = .ok i) :
    decode cfg v = .ok (.loadImmediate i.dest i.src1 i.src2 (immField v)) := by
  obtain ⟨op, d, s1, s2, ho, hd, h1, h2, rfl⟩ := (decode_eq_ok_iff cfg w i).mp h
  rw [← opcode] at ho; rw [← dest] at hd; rw [← src1] at h1; rw [← src2] at h2
  exact decode_of_all_mapped ho hd h1 h2

theorem decode_eq_invalidRegister_of_same_other_fields {n : RegNum} (h : decode cfg w = .err (.invalidRegister n)) :
    decode cfg v = .err (.invalidRegister n) := by
  rw [decode_eq_invalidRegister_iff] at h ⊢
  rwa [opcode, dest, src1, src2]

end SameOtherFields

/-- Settles O23: no rule of `decode` reads the immediate but the one that assembles the instruction. -/
theorem immediateTakenVerbatim : Obligations.ImmediateTakenVerbatim := by
  refine fun cfg w => ⟨fun i h => ?_, fun v opcode dest src1 src2 => ⟨fun i => ?_, fun n => ?_⟩, fun ho hd h1 h2 => ?_⟩
  · rw [imm_of_decode_eq_ok h, immField_toNat]
  · exact decode_eq_ok_of_same_other_fields opcode dest src1 src2
  · exact decode_eq_invalidRegister_of_same_other_fields opcode dest src1 src2
  · obtain ⟨op, ho⟩ := Option.isSome_iff_exists.mp ho
    obtain ⟨d, hd⟩ := Option.isSome_iff_exists.mp hd
    obtain ⟨s1, h1⟩ := Option.isSome_iff_exists.mp h1
    exact decode_of_src2_unmapped ho hd h1 h2

end Sys2Proof.Machine
end

section
/-! PROOFS. Every word gives a valuation of the output ports, and a step drives the valuation of the caller's next word
(41_decode_dispatch.md rule R132, rule R133). -/
namespace Sys2Proof.Machine

theorem blockPorts_of_ok {cfg : Config} {w : Word} {i : Instr} (h : decode cfg w = .ok i) :
    blockPorts cfg w = okPorts cfg i := by
  rw [blockPorts, h, resultPorts]

theorem blockPorts_of_err {cfg : Config} {w : Word} {e : Error} (h : decode cfg w = .err e) :
    blockPorts cfg w = some (errPorts e) := by
  rw [blockPorts, h, resultPorts]

/-- A delivered instruction has ports: its registers came from numbers, and `num` gives those numbers back. -/
theorem okPorts_of_decode_eq_ok {cfg : Config} {w : Word} {i : Instr} (h : decode cfg w = .ok i) :
    okPorts cfg i
      = some ⟨true, 0b00, 0, opcodeField w, destField w, src1Field w, src2Field cfg.src2Layout w, immField w⟩ := by
  obtain ⟨op, d, s1, s2, ho, hd, h1, h2, rfl⟩ := (decode_eq_ok_iff cfg w i).mp h
  rw [okPorts_of_nums (num_of_regmap hd) (num_of_regmap h1) (num_of_regmap h2), optable_eq_some.mp ho]
  rfl

theorem exists_blockPorts (cfg : Config) (w : Word) : ∃ p, blockPorts cfg w = some p := by
  cases h : decode cfg w with
  | ok i => exact ⟨_, (blockPorts_of_ok h).trans (okPorts_of_decode_eq_ok h)⟩
  | err e => exact ⟨_, blockPorts_of_err h⟩

theorem deliverInstruction_of_okPorts {i : Instr} {p : OutPorts} (h : okPorts Config.hardware i = some p) (s : State) :
    deliverInstruction i s = .next (driveOutputs p s) := by
  rw [deliverInstruction, h]

/-- What a step does, as one next state: the word is presented and its ports are driven. -/
theorem step_of_blockPorts {s : State} {p : OutPorts} (h : blockPorts Config.hardware (nextWord s) = some p) :
    step s = .next (driveOutputs p (presentNext s)) := by
  obtain ⟨i, decoded, stepped⟩ | ⟨e, decoded, stepped⟩ := step_cases s
  · rw [stepped, deliverInstruction_of_okPorts ((blockPorts_of_ok decoded).symm.trans h)]
  · obtain rfl : errPorts e = p := Option.some.inj ((blockPorts_of_err decoded).symm.trans h)
    exact stepped

/-- Settles O37: every word has ports, so every step has a next state. -/
theorem everyStepAnswers : Obligations.EveryStepAnswers := by
  intro s
  obtain ⟨p, hp⟩ := exists_blockPorts Config.hardware (nextWord s)
  exact ⟨_, step_of_blockPorts hp⟩

/-- Settles O40: the driven ports and the validators' wires are functions of the next word. -/
theorem resultIndependentOfHistory : Obligations.ResultIndependentOfHistory := by
  intro s t same
  obtain ⟨p, hp⟩ := exists_blockPorts Config.hardware (nextWord s)
  exact ⟨_, _, step_of_blockPorts hp, step_of_blockPorts (same ▸ hp), by simp [same]⟩

end Sys2Proof.Machine
end

section
/-! PROOFS. A word and its five fields give one another: `enc` is the inverse of field extraction (30_encoding.md
section 2 and section 6). -/
namespace Sys2Proof.Machine

/-- Settles O2: both fields read their bit at its place in the word. -/
theorem bit16FeedsSrc2AndImm : Obligations.Bit16FeedsSrc2AndImm := by
  intro w
  simp [src2Field, immField]

theorem isSome_optable_iff (o : Opcode) : (optable o).isSome ↔ o = 1#5 := by
  revert o
  decide

theorem optable_opcodeField_of_bitRun_eq {w : Word} (h : bitRun w 0 5 = 1) :
    optable (opcodeField w) = some .loadImmediate :=
  optable_eq_some.mpr (BitVec.eq_of_toNat_eq ((opcodeField_toNat w).trans h))

theorem optable_opcodeField_of_bitRun_ne {w : Word} (h : bitRun w 0 5 ≠ 1) : optable (opcodeField w) = none := by
  refine if_neg fun opcode => h ?_
  rw [← opcodeField_toNat, opcode]
  rfl

/-- Settles O18. -/
theorem onlyOpcodeOneIsMapped : Obligations.OnlyOpcodeOneIsMapped :=
  fun _ => ⟨optable_opcodeField_of_bitRun_eq, optable_opcodeField_of_bitRun_ne⟩

/-- The numbers that one word can hold side by side. -/
theorem bit16Agrees_overlap4_iff (n : RegNum) (i : Imm16) :
    bit16Agrees .overlap4 n i = true ↔ n.toNat / 2 ^ 3 = i.toNat % 2 := by
  have top : n.getLsbD 3 = decide (n.toNat / 2 ^ 3 = 1) := by revert n; decide
  have low : i.getLsbD 0 = decide (i.toNat % 2 = 1) := by
    rw [BitVec.getLsbD, Nat.testBit_zero]
  rw [bit16Agrees, beq_iff_eq, top, low, decide_eq_decide]
  omega

theorem bit16Agrees_disjoint3_iff (n : RegNum) (i : Imm16) :
    bit16Agrees .disjoint3 n i = true ↔ n.toNat < 2 ^ 3 := by
  revert n
  simp only [bit16Agrees]
  decide

theorem bit16Agrees_fields (layout : Src2Layout) (w : Word) :
    bit16Agrees layout (src2Field layout w) (immField w) = true := by
  cases layout <;> simp [bit16Agrees, src2Field, immField]

theorem src2Field_toNat_mod (layout : Src2Layout) (w : Word) : (src2Field layout w).toNat % 2 ^ 3 = bitRun w 13 3 := by
  cases layout with
  | overlap4 => rw [src2Field_overlap4_toNat]; simp only [bitRun]; omega
  | disjoint3 => rw [src2Field_disjoint3_toNat]; simp only [bitRun]; omega

/-- No bit of the word is unused. -/
theorem encWord_fields (layout : Src2Layout) (w : Word) :
    encWord (opcodeField w) (destField w) (src1Field w) (src2Field layout w) (immField w) = w := by
  apply BitVec.eq_of_toNat_eq
  rw [encWord_toNat, opcodeField_toNat, destField_toNat, src1Field_toNat, src2Field_toNat_mod, immField_toNat]
  simp only [bitRun]
  omega

section Concatenation

variable (o : Opcode) (d s1 s2 : RegNum) (i : Imm16)

@[simp] theorem opcodeField_encWord : opcodeField (encWord o d s1 s2 i) = o := by
  apply BitVec.eq_of_toNat_eq
  rw [opcodeField_toNat, bitRun, encWord_toNat]
  omega

@[simp] theorem destField_encWord : destField (encWord o d s1 s2 i) = d := by
  apply BitVec.eq_of_toNat_eq
  rw [destField_toNat, bitRun, encWord_toNat]
  omega

@[simp] theorem src1Field_encWord : src1Field (encWord o d s1 s2 i) = s1 := by
  apply BitVec.eq_of_toNat_eq
  rw [src1Field_toNat, bitRun, encWord_toNat]
  omega

@[simp] theorem immField_encWord : immField (encWord o d s1 s2 i) = i := by
  apply BitVec.eq_of_toNat_eq
  rw [immField_toNat, bitRun, encWord_toNat]
  omega

variable {s2 i}

/-- The fourth bit of `src2` has no place of its own, so it must agree with what the word holds there. -/
theorem src2Field_encWord {layout : Src2Layout} (agrees : bit16Agrees layout s2 i = true) :
    src2Field layout (encWord o d s1 s2 i) = s2 := by
  apply BitVec.eq_of_toNat_eq
  cases layout with
  | overlap4 =>
    rw [bit16Agrees_overlap4_iff] at agrees
    rw [src2Field_overlap4_toNat, bitRun, encWord_toNat]
    omega
  | disjoint3 =>
    rw [bit16Agrees_disjoint3_iff] at agrees
    rw [src2Field_disjoint3_toNat, bitRun, encWord_toNat]
    omega

end Concatenation

/-- The inverse law: `enc` answers with the word that has the five fields, and with nothing when no word has them. -/
theorem enc_eq_some_iff (cfg : Config) (o : Opcode) (d s1 s2 : RegNum) (i : Imm16) (w : Word) :
    enc cfg.src2Layout o d s1 s2 i = some w ↔ fields cfg w = ⟨o, d, s1, s2, i⟩ := by
  constructor
  · intro encoded
    have agrees := (enc_isSome_iff cfg.src2Layout o d s1 s2 i).mp (by simp [encoded])
    rw [enc, if_pos agrees] at encoded
    obtain rfl := Option.some.inj encoded
    simp [fields, src2Field_encWord o d s1 agrees]
  · intro fieldsEq
    obtain ⟨rfl, rfl, rfl, rfl, rfl⟩ := Fields.mk.inj fieldsEq
    rw [enc, if_pos (bit16Agrees_fields cfg.src2Layout w), encWord_fields]

/-- Settles O3: both words are what `enc` makes of their fields. -/
theorem fieldsDetermineTheWord : Obligations.FieldsDetermineTheWord := by
  intro cfg w v same
  have encoded := (enc_eq_some_iff cfg _ _ _ _ _ w).mpr same
  exact Option.some.inj (encoded.symm.trans ((enc_eq_some_iff cfg _ _ _ _ _ v).mpr rfl))

/-- Settles O4: where the side condition holds `enc` has a word to answer with, and where it fails it has none. -/
theorem encIsTheInverseOfFields : Obligations.EncIsTheInverseOfFields := by
  refine fun cfg o d s1 s2 i => ⟨fun agrees => ?_, fun disagrees => ?_⟩
  · obtain ⟨w, encoded⟩ := Option.isSome_iff_exists.mp ((enc_isSome_iff cfg.src2Layout o d s1 s2 i).mpr agrees)
    exact ⟨w, encoded, (enc_eq_some_iff cfg o d s1 s2 i w).mp encoded⟩
  · have undefined : enc cfg.src2Layout o d s1 s2 i = none := by rw [enc, disagrees]; rfl
    refine ⟨undefined, fun w fieldsEq => ?_⟩
    exact absurd (undefined.symm.trans ((enc_eq_some_iff cfg o d s1 s2 i w).mpr fieldsEq)) (by simp)

end Sys2Proof.Machine
end

section
/-! PROOFS. `encode` and `decode` are each other's inverse between the well-formed instructions and the legal words
(41_decode_dispatch.md section 7). -/
namespace Sys2Proof.Machine

theorem encode_of_nums {cfg : Config} {i : Instr} {d s1 s2 : RegNum} (dest : num cfg.isaRev i.dest = some d)
    (src1 : num cfg.isaRev i.src1 = some s1) (src2 : num cfg.isaRev i.src2 = some s2) :
    encode cfg i = enc cfg.src2Layout (opcodeOf i.operation) d s1 s2 i.imm := by
  simp only [encode, dest, src1, src2]

/-- A legal word's registers are numbered by its own fields, and those are what `enc` puts together again. -/
theorem encode_of_decode_eq_ok {cfg : Config} {w : Word} {i : Instr} (h : decode cfg w = .ok i) :
    encode cfg i = some w := by
  obtain ⟨op, d, s1, s2, opcode, dest, src1, src2, rfl⟩ := (decode_eq_ok_iff cfg w i).mp h
  have fieldsEq : fields cfg w = ⟨opcodeOf op, destField w, src1Field w, src2Field cfg.src2Layout w, immField w⟩ := by
    rw [fields, optable_eq_some.mp opcode]
  rw [← (enc_eq_some_iff cfg _ _ _ _ _ w).mpr fieldsEq]
  exact encode_of_nums (num_of_regmap dest) (num_of_regmap src1) (num_of_regmap src2)

/-- Settles O6. -/
theorem encodeRebuildsTheLegalWord : Obligations.EncodeRebuildsTheLegalWord :=
  fun _ _ _ => encode_of_decode_eq_ok

/-- Settles O7: both words are the one that `encode` gives. -/
theorem decodeInjectiveOnSuccesses : Obligations.DecodeInjectiveOnSuccesses :=
  fun _ _ _ _ hw hv => Option.some.inj ((encode_of_decode_eq_ok hw).symm.trans (encode_of_decode_eq_ok hv))

theorem wellFormed_iff (cfg : Config) (i : Instr) :
    i.wellFormed cfg = true ↔
      ∃ d s1 s2, num cfg.isaRev i.dest = some d ∧ num cfg.isaRev i.src1 = some s1 ∧ num cfg.isaRev i.src2 = some s2
        ∧ bit16Agrees cfg.src2Layout s2 i.imm = true := by
  simp only [Instr.wellFormed, registerInRevision, Bool.and_eq_true, decide_eq_true_eq, ← num_isSome_iff,
    Option.isSome_iff_exists]
  constructor
  · rintro ⟨⟨⟨⟨d, dest⟩, ⟨s1, src1⟩⟩, ⟨s2, src2⟩⟩, fits⟩
    exact ⟨d, s1, s2, dest, src1, src2, by simpa only [src2FitsImm, src2] using fits⟩
  · rintro ⟨d, s1, s2, dest, src1, src2, agrees⟩
    exact ⟨⟨⟨⟨d, dest⟩, ⟨s1, src1⟩⟩, ⟨s2, src2⟩⟩, by simpa only [src2FitsImm, src2] using agrees⟩

theorem assemble_self (i : Instr) : assemble i.operation i.dest i.src1 i.src2 i.imm = i := rfl

/-- A word whose fields are an instruction's numbers decodes to it. -/
theorem decode_of_fields_eq {cfg : Config} (valid : cfg.valid = true) {w : Word} {i : Instr} {d s1 s2 : RegNum}
    (fieldsEq : fields cfg w = ⟨opcodeOf i.operation, d, s1, s2, i.imm⟩) (dest : num cfg.isaRev i.dest = some d)
    (src1 : num cfg.isaRev i.src1 = some s1) (src2 : num cfg.isaRev i.src2 = some s2) : decode cfg w = .ok i := by
  obtain ⟨ho, rfl, rfl, rfl, hi⟩ := Fields.mk.inj fieldsEq
  rw [← assemble_self i, ← hi]
  exact decode_of_all_mapped (optable_eq_some.mpr ho) (regmap_of_num valid dest) (regmap_of_num valid src1)
    (regmap_of_num valid src2)

/-- Settles O5: a well-formed instruction has numbers that fit one word, `enc` gives that word, and the register table
maps the numbers back. -/
theorem decodeReadsBackEncode : Obligations.DecodeReadsBackEncode := by
  intro cfg i valid wf
  obtain ⟨d, s1, s2, dest, src1, src2, agrees⟩ := (wellFormed_iff cfg i).mp wf
  obtain ⟨w, encoded⟩ := Option.isSome_iff_exists.mp
    ((enc_isSome_iff cfg.src2Layout (opcodeOf i.operation) d s1 s2 i.imm).mpr agrees)
  have fieldsEq := (enc_eq_some_iff cfg _ d s1 s2 i.imm w).mp encoded
  exact ⟨w, (encode_of_nums dest src1 src2).trans encoded, decode_of_fields_eq valid fieldsEq dest src1 src2⟩

theorem wellFormed_of_decode_eq_ok {cfg : Config} {w : Word} {i : Instr} (h : decode cfg w = .ok i) :
    i.wellFormed cfg = true := by
  obtain ⟨op, d, s1, s2, -, dest, src1, src2, rfl⟩ := (decode_eq_ok_iff cfg w i).mp h
  exact (wellFormed_iff cfg _).mpr ⟨_, _, _, num_of_regmap dest, num_of_regmap src1, num_of_regmap src2,
    bit16Agrees_fields cfg.src2Layout w⟩

/-- Settles O8: what a word delivers is well-formed, and what is well-formed is delivered by its own word. -/
theorem deliveredExactlyTheWellFormed : Obligations.DeliveredExactlyTheWellFormed := by
  intro cfg i valid
  constructor
  · rintro ⟨w, h⟩
    exact wellFormed_of_decode_eq_ok h
  · intro wf
    obtain ⟨w, -, decoded⟩ := decodeReadsBackEncode cfg i valid wf
    exact ⟨w, decoded⟩

end Sys2Proof.Machine
end

section
/-! PROOFS. The settled wires: after any step each wire is the function of the presented word, so the wires of a run are
read off word by word (70_reset_and_hazards.md; 43_port_encoding.md section 3). -/
namespace Sys2Proof.Machine

theorem settled_driveOutputs_presentNext {s : State} {p : OutPorts}
    (h : blockPorts Config.hardware (nextWord s) = some p) :
    Settled Config.hardware (driveOutputs p (presentNext s)) where
  out := h
  vDest := rfl
  vSrc1 := rfl
  vSrc2 := rfl

/-- All that matters of a step: the caller's next word is presented, and every wire settles on it. -/
theorem exists_step_settled (s : State) :
    ∃ t, step s = .next t ∧ Settled Config.hardware t ∧ t.wordI = nextWord s ∧ t.pending = s.pending.tail := by
  obtain ⟨p, ports⟩ := exists_blockPorts Config.hardware (nextWord s)
  exact ⟨_, step_of_blockPorts ports, settled_driveOutputs_presentNext ports, rfl, rfl⟩

theorem settled_of_step {s t : State} (stepped : step s = .next t) :
    Settled Config.hardware t ∧ t.wordI = nextWord s ∧ t.pending = s.pending.tail := by
  obtain ⟨t', stepped', facts⟩ := exists_step_settled s
  cases stepped'.symm.trans stepped
  exact facts

/-- Settles O38. -/
theorem everyStepSettlesTheWires : Obligations.EveryStepSettlesTheWires := by
  intro s t stepped
  obtain ⟨settled, -, -⟩ := settled_of_step stepped
  exact settled

/-- The block has no state of its own: settled on the same word, with the same words to come, it is the same state. -/
theorem eq_of_settled {cfg : Config} {s t : State} (hs : Settled cfg s) (ht : Settled cfg t)
    (word : s.wordI = t.wordI) (pending : s.pending = t.pending) : s = t := by
  obtain ⟨outS, destS, src1S, src2S⟩ := hs
  obtain ⟨outT, destT, src1T, src2T⟩ := ht
  have out : s.out = t.out := by
    rw [word, outT] at outS
    exact (Option.some.inj outS).symm
  rw [word, ← destT] at destS
  rw [word, ← src1T] at src1S
  rw [word, ← src2T] at src2S
  cases s
  cases t
  simp_all

/-- Settles O39: the wires at reset are those of the zero word. -/
theorem resetStateIsSettled : Obligations.ResetStateIsSettled :=
  ⟨⟨rfl, rfl, rfl, rfl⟩, rfl, rfl⟩

/-- Settles O41, by induction on the words presented before the one in question. -/
theorem runGivesEachWordItsOwnResult : Obligations.RunGivesEachWordItsOwnResult := by
  intro s k w pending
  induction k generalizing s with
  | zero =>
    obtain ⟨t, stepped, settled, word, rest⟩ := exists_step_settled s
    obtain rfl : t.wordI = w := by
      rw [word, nextWord, List.headD_eq_head?_getD, List.head?_eq_getElem?, pending, Option.getD_some]
    exact ⟨t, run_of_next stepped 0, rfl, settled.out, by rw [rest, List.drop_one]⟩
  | succ k ih =>
    obtain ⟨t, stepped, -, -, rest⟩ := exists_step_settled s
    obtain ⟨u, run, word, out, pendingU⟩ := ih t (by rw [rest, List.getElem?_tail, pending])
    exact ⟨u, (run_of_next stepped (k + 1)).trans run, word, out, by rw [pendingU, rest, List.drop_tail]⟩

/-- Settles O42: with and without the earlier word, the run ends settled on the same word, with the same words left. -/
theorem earlierWordLeavesNoTrace : Obligations.EarlierWordLeavesNoTrace := by
  intro s w v rest pending
  obtain ⟨s1, step1, -, -, pending1⟩ := exists_step_settled s
  obtain ⟨s2, step2, settled2, word2, pending2⟩ := exists_step_settled s1
  obtain ⟨t, stepT, settledT, wordT, pendingT⟩ := exists_step_settled { s with pending := v :: rest }
  rw [pending, List.tail_cons] at pending1
  have word : s2.wordI = t.wordI := by rw [word2, wordT, nextWord_of_cons s1 pending1, nextWord_of_cons _ rfl]
  have toCome : s2.pending = t.pending := by rw [pending2, pendingT, pending1]
  obtain rfl := eq_of_settled settled2 settledT word toCome
  exact (run_of_next step1 1).trans ((run_of_next step2 0).trans stepT.symm)

/-- Settles O43: the wires are settled on the word before the step and after it. -/
theorem presentingTheSameWordChangesNothing : Obligations.PresentingTheSameWordChangesNothing := by
  intro s settled same
  obtain ⟨t, stepped, settledT, word, pending⟩ := exists_step_settled s
  have shortened : Settled Config.hardware { s with pending := s.pending.tail } :=
    ⟨settled.out, settled.vDest, settled.vSrc1, settled.vSrc2⟩
  rw [stepped, eq_of_settled settledT shortened (word.trans same) pending]

/-- A state that steps to itself stays where it is along every run. -/
theorem run_of_fixed {s : State} (fixed : step s = .next s) (k : Nat) : Sys2Proof.core.run k s = .next s := by
  induction k with
  | zero => exact run_zero s
  | succ k ih => rw [run_of_next fixed, ih]

/-- Settles O44: the first step leaves a settled state with nothing pending, and that state steps to itself. -/
theorem wordHeldOnThePortKeepsItsResult : Obligations.WordHeldOnThePortKeepsItsResult := by
  intro s k nothing
  obtain ⟨t, stepped, settled, -, pending⟩ := exists_step_settled s
  rw [nothing, List.tail_nil] at pending
  have fixed : step t = .next t := by
    rw [presentingTheSameWordChangesNothing t settled (nextWord_of_nil t pending), pending, List.tail_nil, ← pending]
  exact (run_of_next stepped k).trans ((run_of_fixed fixed k).trans stepped.symm)

end Sys2Proof.Machine
end

section
/-! PROOFS. What a step does with the decoded word, and what `exec` of LoadImmediate does to the state
(42_load_immediate.md section 1; 60_exceptions.md section 3). -/
namespace Sys2Proof.Machine

theorem exec_eq_deliverInstruction (i : Instr) (s : State) : exec i s = deliverInstruction i s := by
  cases i
  rfl

/-- Settles O32. -/
theorem stepRunsTheDecodedInstruction : Obligations.StepRunsTheDecodedInstruction := by
  intro s i decoded
  obtain ⟨j, decoded', stepped⟩ | ⟨e, failed, -⟩ := step_cases s
  · cases decoded'.symm.trans decoded
    rw [stepped, ← exec_eq_deliverInstruction]
    rfl
  · cases failed.symm.trans decoded

theorem eq_of_decode_eq_unknownInstruction {cfg : Config} {w v : Word}
    (h : decode cfg w = .err (.unknownInstruction v)) : v = w := by
  obtain ⟨-, same⟩ := (decode_eq_unknownInstruction_iff cfg w v).mp h
  exact same

theorem errInfo_invalidRegister_toNat (n : RegNum) : (errInfo (.invalidRegister n)).toNat = n.toNat :=
  BitVec.toNat_setWidth_of_le (by decide)

/-- Settles O33: the step drives the ports of the error, whose payload is the word or the number. -/
theorem stepDeliversTheError : Obligations.StepDeliversTheError := by
  intro s e decoded
  refine ⟨_, step_of_blockPorts (blockPorts_of_err decoded), rfl, rfl, rfl, rfl, rfl, rfl, rfl, rfl, rfl, rfl, rfl,
    fun w unknown => ?_, fun n invalid => ?_⟩
  · subst unknown
    exact ⟨rfl, rfl, eq_of_decode_eq_unknownInstruction decoded⟩
  · subst invalid
    exact ⟨rfl, errInfo_invalidRegister_toNat n⟩

theorem destField_eq_ofNat (w : Word) : destField w = BitVec.ofNat 4 (bitRun w 5 4) := by
  rw [← destField_toNat, BitVec.ofNat_toNat, BitVec.setWidth_eq]

theorem src1Field_eq_ofNat (w : Word) : src1Field w = BitVec.ofNat 4 (bitRun w 9 4) := by
  rw [← src1Field_toNat, BitVec.ofNat_toNat, BitVec.setWidth_eq]

theorem src2Field_overlap4_eq_ofNat (w : Word) : src2Field .overlap4 w = BitVec.ofNat 4 (bitRun w 13 4) := by
  rw [← src2Field_overlap4_toNat, BitVec.ofNat_toNat, BitVec.setWidth_eq]

theorem immField_eq_ofNat (w : Word) : immField w = BitVec.ofNat 16 (bitRun w 16 16) := by
  rw [← immField_toNat, BitVec.ofNat_toNat, BitVec.setWidth_eq]

/-- Settles O45: an unmapped opcode is an error like any other to the step, and the validators read the fields. -/
theorem validatorsWorkOnUnmappedWords : Obligations.ValidatorsWorkOnUnmappedWords := by
  intro s unmapped
  have decoded := decode_of_opcode_unmapped (cfg := Config.hardware) (optable_opcodeField_of_bitRun_ne unmapped)
  rw [← destField_eq_ofNat, ← src1Field_eq_ofNat, ← src2Field_overlap4_eq_ofNat]
  exact ⟨_, step_of_blockPorts (blockPorts_of_err decoded), rfl, rfl, rfl, rfl⟩

/-- The registers of this hardware and their numbers (the spec's decision D3). -/
theorem num_revA_of_mem {r : RegisterID} (member : r ∈ [RegisterID.x0, .a0]) :
    num .revA r = some (if r = .x0 then 0 else 1) := by
  revert r
  simp [num]

theorem num_revA_of_not_member {r : RegisterID} (notMember : r ∈ [RegisterID.ra, .sp]) : num .revA r = none := by
  revert r
  simp [num]

/-- Settles O34. -/
theorem loadImmediateCompletes : Obligations.LoadImmediateCompletes := by
  intro dest src1 src2 imm s hd h1 h2
  have ports := okPorts_of_nums (cfg := Config.hardware) (i := .loadImmediate dest src1 src2 imm) (num_revA_of_mem hd)
    (num_revA_of_mem h1) (num_revA_of_mem h2)
  rw [exec_eq_deliverInstruction, deliverInstruction_of_okPorts ports]
  rfl

/-- Settles O35: of the two things the delivery can do, only driving the outputs answers. -/
theorem loadImmediateFrame : Obligations.LoadImmediateFrame := by
  intro dest src1 src2 imm s t h
  rw [exec_eq_deliverInstruction] at h
  obtain ⟨d, s1, s2, -, -, -, delivered⟩ | refused := deliverInstruction_cases (.loadImmediate dest src1 src2 imm) s
  · cases delivered.symm.trans h
    exact ⟨rfl, rfl, rfl, rfl, rfl⟩
  · cases refused.symm.trans h

/-- Settles O36: a delivery needs a number for each register, and a non-member has none. -/
theorem nonMemberRegisterRefused : Obligations.NonMemberRegisterRefused := by
  intro dest src1 src2 imm s notMember
  rw [exec_eq_deliverInstruction]
  obtain ⟨d, s1, s2, hd, h1, h2, -⟩ | refused := deliverInstruction_cases (.loadImmediate dest src1 src2 imm) s
  · obtain hn | hn | hn := notMember
    · exact absurd (hd.symm.trans (num_revA_of_not_member hn)) (by simp)
    · exact absurd (h1.symm.trans (num_revA_of_not_member hn)) (by simp)
    · exact absurd (h2.symm.trans (num_revA_of_not_member hn)) (by simp)
  · exact refused

end Sys2Proof.Machine
end

section
/-! PROOFS. The register table of each revision: what `REV_A` maps, what `REV_B` adds, and the constraints both meet
(40_register_validator.md section 2 to section 4). -/
namespace Sys2Proof.Machine

theorem resolve_eq_ok_iff {rev : IsaRev} {id : RegNum} {r : RegisterID} :
    resolve rev id = .ok r ↔ regmap rev id = some r := by
  constructor
  · intro h
    obtain ⟨r', mapped, answer⟩ | ⟨-, answer⟩ := resolve_cases rev id
    · cases answer.symm.trans h
      exact mapped
    · cases answer.symm.trans h
  · exact resolve_of_regmap_eq_some

theorem regmap_eq_some_iff {rev : IsaRev} (valid : rev.valid = true) {n : RegNum} {r : RegisterID} :
    regmap rev n = some r ↔ num rev r = some n :=
  ⟨num_of_regmap, regmap_of_num valid⟩

theorem regmap_zero (rev : IsaRev) : regmap rev 0 = some .x0 := rfl

theorem regmap_one (rev : IsaRev) : regmap rev 1 = some .a0 := rfl

/-- Settles O16: under a valid revision the table is the inverse of `num`, which gives a number to the members alone. -/
theorem registerTableConstraints : Obligations.RegisterTableConstraints := by
  refine fun rev valid => ⟨resolve_of_regmap_eq_some (regmap_zero rev), resolve_of_regmap_eq_some (regmap_one rev),
    fun a b r ha hb => ?_, fun r => ?_⟩
  · have numA := num_of_regmap (resolve_eq_ok_iff.mp ha)
    exact Option.some.inj (numA.symm.trans (num_of_regmap (resolve_eq_ok_iff.mp hb)))
  · simp only [resolve_eq_ok_iff, regmap_eq_some_iff valid, ← Option.isSome_iff_exists, num_isSome_iff]

theorem regmap_revA_of_lt {n : RegNum} (h : n.toNat < 2) :
    regmap .revA n = some (if n.toNat = 0 then .x0 else .a0) := by
  revert n
  decide

theorem regmap_revA_of_ge {n : RegNum} (h : 2 ≤ n.toNat) : regmap .revA n = none := by
  revert n
  decide

theorem regmap_revA_isSome_iff (n : RegNum) : (regmap .revA n).isSome ↔ n.toNat < 2 := by
  revert n
  decide

theorem toNat_lt_of_regmap_revA {n : RegNum} {r : RegisterID} (mapped : regmap .revA n = some r) : n.toNat < 2 :=
  (regmap_revA_isSome_iff n).mp (by rw [mapped, Option.isSome_some])

/-- Settles O15. -/
theorem resolveTableRevA : Obligations.ResolveTableRevA :=
  ⟨resolve_of_regmap_eq_some (regmap_zero .revA), resolve_of_regmap_eq_some (regmap_one .revA),
    fun _ h => resolve_of_regmap_eq_none (regmap_revA_of_ge h)⟩

/-- `REV_B` keeps the entries of `REV_A` (decision D3), whatever its own two numbers. -/
theorem regmap_revB_of_revA {n : RegNum} {r : RegisterID} (idRA idSP : RegNum) (mapped : regmap .revA n = some r) :
    regmap (.revB idRA idSP) n = some r := by
  unfold regmap at mapped ⊢
  split at mapped
  · rwa [if_pos ‹n = 0#4›]
  · rw [if_neg ‹¬n = 0#4›]
    split at mapped
    · rwa [if_pos ‹n = 1#4›]
    · cases mapped

/-- Settles O25: a word's fields are the same in both revisions, and `REV_B` maps what `REV_A` maps. -/
theorem revBExtendsRevA : Obligations.RevBExtendsRevA := by
  intro layout idRA idSP w i h
  obtain ⟨op, d, s1, s2, opcode, dest, src1, src2, same⟩ := (decode_eq_ok_iff _ w i).mp h
  exact (decode_eq_ok_iff _ w i).mpr ⟨op, d, s1, s2, opcode, regmap_revB_of_revA idRA idSP dest,
    regmap_revB_of_revA idRA idSP src1, regmap_revB_of_revA idRA idSP src2, same⟩

end Sys2Proof.Machine
end

section
/-! PROOFS. Which answer a word gets, by the layout and by the first invalid field (41_decode_dispatch.md section 4 and
section 6; 30_encoding.md section 5). -/
namespace Sys2Proof.Machine

/-- Settles O9, each word run through the decoder. -/
theorem writtenOutWordsDecode : Obligations.WrittenOutWordsDecode := by
  refine ⟨?_, ?_, ?_, ?_⟩ <;> decide

/-- Settles O22: `decode` has three kinds of answer, and this is none of them. -/
theorem invalidInstructionNeverReported : Obligations.InvalidInstructionNeverReported := by
  intro cfg w h
  obtain isOk | unknown | ⟨n, invalid⟩ := decode_ok_or_unknownInstruction_or_invalidRegister cfg w
  · rw [h] at isOk
    cases isOk
  · cases unknown.symm.trans h
  · cases invalid.symm.trans h

/-- Settles O20: on this hardware a number is mapped when it is below 2, and each answer is a rule of `decode`. -/
theorem firstInvalidFieldReported : Obligations.FirstInvalidFieldReported := by
  intro w opcodeOne
  have opcode := optable_opcodeField_of_bitRun_eq opcodeOne
  rw [← destField_eq_ofNat, ← src1Field_eq_ofNat, ← src2Field_overlap4_eq_ofNat, ← immField_eq_ofNat,
    ← destField_toNat, ← src1Field_toNat, ← src2Field_overlap4_toNat]
  refine ⟨fun dest => ?_, fun dest src1 => ?_, fun dest src1 src2 => ?_, fun dest src1 src2 => ?_⟩
  · exact decode_of_dest_unmapped opcode (regmap_revA_of_ge dest)
  · exact decode_of_src1_unmapped opcode (regmap_revA_of_lt dest) (regmap_revA_of_ge src1)
  · exact decode_of_src2_unmapped opcode (regmap_revA_of_lt dest) (regmap_revA_of_lt src1) (regmap_revA_of_ge src2)
  · exact decode_of_all_mapped opcode (regmap_revA_of_lt dest) (regmap_revA_of_lt src1) (regmap_revA_of_lt src2)

theorem src2Field_disjoint3_le (w : Word) : (src2Field .disjoint3 w).toNat ≤ 7 := by
  rw [src2Field_disjoint3_toNat, bitRun]
  omega

/-- Settles O21: the payload is the field that the answer's branch found unmapped. -/
theorem invalidRegisterPayload : Obligations.InvalidRegisterPayload := by
  intro cfg w n h
  obtain ⟨-, ⟨unmapped, rfl⟩ | ⟨-, ⟨unmapped, rfl⟩ | ⟨-, unmapped, rfl⟩⟩⟩ :=
    (decode_eq_invalidRegister_iff cfg w n).mp h
  · exact ⟨unmapped, .inl rfl, fun _ notDest => absurd rfl notDest⟩
  · exact ⟨unmapped, .inr (.inl rfl), fun _ _ notSrc1 => absurd rfl notSrc1⟩
  · refine ⟨unmapped, .inr (.inr rfl), fun layout _ _ => ?_⟩
    rw [layout]
    exact src2Field_disjoint3_le w

/-- `decode` reads the layout through the `src2` field alone. -/
theorem decode_congr_layout {rev : IsaRev} {l l' : Src2Layout} {w : Word} (same : src2Field l w = src2Field l' w) :
    decode ⟨rev, l⟩ w = decode ⟨rev, l'⟩ w := by
  simp only [decode, same]

theorem src2Field_layouts_eq {w : Word} (clear : (src2Field .overlap4 w).toNat < 2 ^ 3) :
    src2Field .overlap4 w = src2Field .disjoint3 w := by
  apply BitVec.eq_of_toNat_eq
  rw [src2Field_overlap4_toNat] at clear ⊢
  rw [src2Field_disjoint3_toNat]
  simp only [bitRun] at clear ⊢
  omega

theorem src2Field_overlap4_lt_of_bit16_clear {w : Word} (clear : w.getLsbD 16 = false) :
    (src2Field .overlap4 w).toNat < 2 ^ 3 := by
  obtain ⟨src2, imm, -⟩ := bit16FeedsSrc2AndImm w
  have top : (src2Field .overlap4 w).getLsbD 3 = false := by rw [src2, imm, clear]
  rwa [← bit16Agrees_disjoint3_iff _ 0, bit16Agrees, beq_iff_eq]

/-- Settles O24: the layouts' `src2` fields are the same value when the shared bit is clear, and so it is in every word
that `REV_A` accepts under `OVERLAP4`. -/
theorem layoutsDifferOnlyThroughBit16 : Obligations.LayoutsDifferOnlyThroughBit16 := by
  refine ⟨fun rev w clear => ?_, fun w i accepted => ?_⟩
  · exact decode_congr_layout (src2Field_layouts_eq (src2Field_overlap4_lt_of_bit16_clear clear))
  · obtain ⟨op, d, s1, s2, -, -, -, src2, -⟩ := (decode_eq_ok_iff _ w i).mp accepted
    have below : (src2Field .overlap4 w).toNat < 2 := toNat_lt_of_regmap_revA src2
    rw [← accepted]
    exact (decode_congr_layout (src2Field_layouts_eq (by omega))).symm

/-- An immediate that fits beside `X0` is reached by the instruction that names `X0` three times. -/
theorem exists_decode_of_bit16Agrees_zero {layout : Src2Layout} {imm : Imm16}
    (agrees : bit16Agrees layout 0 imm = true) :
    ∃ w i, decode ⟨.revA, layout⟩ w = .ok i ∧ i.imm = imm := by
  have wf : (Instr.loadImmediate .x0 .x0 .x0 imm).wellFormed ⟨.revA, layout⟩ = true :=
    (wellFormed_iff _ _).mpr ⟨0, 0, 0, rfl, rfl, rfl, agrees⟩
  obtain ⟨w, decoded⟩ := (deliveredExactlyTheWellFormed _ _ rfl).mpr wf
  exact ⟨w, _, decoded, rfl⟩

theorem imm_even_of_decode_eq_ok {w : Word} {i : Instr} (h : decode ⟨.revA, .overlap4⟩ w = .ok i) :
    i.imm.toNat % 2 = 0 := by
  obtain ⟨op, d, s1, s2, -, -, -, src2, rfl⟩ := (decode_eq_ok_iff _ w i).mp h
  have below : (src2Field .overlap4 w).toNat < 2 := toNat_lt_of_regmap_revA src2
  have shared := (bit16Agrees_overlap4_iff _ _).mp (bit16Agrees_fields .overlap4 w)
  change (immField w).toNat % 2 = 0
  omega

/-- Settles O13: under `OVERLAP4` the shared bit is the top one of a number below 2; under `DISJOINT3` none is
shared. -/
theorem reachableImmediates : Obligations.ReachableImmediates := by
  refine ⟨fun imm => ⟨?_, fun even => ?_⟩, fun imm => ?_⟩
  · rintro ⟨w, i, decoded, rfl⟩
    exact imm_even_of_decode_eq_ok decoded
  · exact exists_decode_of_bit16Agrees_zero ((bit16Agrees_overlap4_iff 0 imm).mpr even.symm)
  · exact exists_decode_of_bit16Agrees_zero ((bit16Agrees_disjoint3_iff 0 imm).mpr (by decide))

end Sys2Proof.Machine
end

section
/-! PROOFS. The valuations of the output ports, one per kind of result, and the result read back from them
(43_port_encoding.md section 2 and section 4). -/
namespace Sys2Proof.Machine

/-- The ports of a legal word carry its own fields (rule R164): `blockPorts_of_decode_eq_ok` ties it to `blockPorts`. -/
def fieldPorts (cfg : Config) (w : Word) : OutPorts :=
  ⟨true, 0b00, 0, opcodeField w, destField w, src1Field w, src2Field cfg.src2Layout w, immField w⟩

theorem blockPorts_of_decode_eq_ok {cfg : Config} {w : Word} {i : Instr} (h : decode cfg w = .ok i) :
    blockPorts cfg w = some (fieldPorts cfg w) :=
  (blockPorts_of_ok h).trans (okPorts_of_decode_eq_ok h)

/-- What the ports of a word can be: its fields, the word itself as an error, or a rejected number. -/
theorem blockPorts_cases {cfg : Config} {w : Word} {p : OutPorts} (h : blockPorts cfg w = some p) :
    (∃ i, decode cfg w = .ok i ∧ p = fieldPorts cfg w)
      ∨ (decode cfg w = .err (.unknownInstruction w) ∧ p = errPorts (.unknownInstruction w))
      ∨ ∃ n, decode cfg w = .err (.invalidRegister n) ∧ p = errPorts (.invalidRegister n) := by
  obtain isOk | unknown | ⟨n, invalid⟩ := decode_ok_or_unknownInstruction_or_invalidRegister cfg w
  · obtain ⟨i, decoded⟩ := (isOk_iff_exists_ok _).mp isOk
    exact .inl ⟨i, decoded, Option.some.inj (h.symm.trans (blockPorts_of_decode_eq_ok decoded))⟩
  · exact .inr (.inl ⟨unknown, Option.some.inj (h.symm.trans (blockPorts_of_err unknown))⟩)
  · exact .inr (.inr ⟨n, invalid, Option.some.inj (h.symm.trans (blockPorts_of_err invalid))⟩)

theorem readPorts_fieldPorts {cfg : Config} {w : Word} {i : Instr} (h : decode cfg w = .ok i) :
    readPorts cfg (fieldPorts cfg w) = some (.ok i) := by
  obtain ⟨op, d, s1, s2, opcode, dest, src1, src2, rfl⟩ := (decode_eq_ok_iff cfg w i).mp h
  simp only [readPorts, fieldPorts, opcode, dest, src1, src2, if_true]

theorem readPorts_errPorts_unknownInstruction (cfg : Config) (w : Word) :
    readPorts cfg (errPorts (.unknownInstruction w)) = some (.err (.unknownInstruction w)) := rfl

theorem readPorts_errPorts_invalidRegister (cfg : Config) (n : RegNum) :
    readPorts cfg (errPorts (.invalidRegister n)) = some (.err (.invalidRegister n)) :=
  congrArg (fun m => some (Result.err (Error.invalidRegister m))) (errInfo_readBack n)

/-- Settles O28: each kind of valuation reads back as the result that drove it. -/
theorem resultReadBackFromPorts : Obligations.ResultReadBackFromPorts := by
  intro cfg w
  obtain ⟨p, ports⟩ := exists_blockPorts cfg w
  refine ⟨p, ports, ?_⟩
  obtain ⟨i, decoded, rfl⟩ | ⟨decoded, rfl⟩ | ⟨n, decoded, rfl⟩ := blockPorts_cases ports
  · rw [decoded, readPorts_fieldPorts decoded]
  · rw [decoded, readPorts_errPorts_unknownInstruction]
  · rw [decoded, readPorts_errPorts_invalidRegister]

/-- Settles O30, valuation by valuation. -/
theorem okFlagAndErrorKindAgree : Obligations.OkFlagAndErrorKindAgree := by
  intro cfg w p ports
  obtain ⟨i, -, rfl⟩ | ⟨-, rfl⟩ | ⟨n, -, rfl⟩ := blockPorts_cases ports
  · simp [fieldPorts]
  · simp [errPorts, errKindCode]
  · simp [errPorts, errKindCode]

/-- Settles O31. -/
theorem noPartialOutputOnError : Obligations.NoPartialOutputOnError :=
  fun _ _ _ h => ⟨_, blockPorts_of_err h, rfl, rfl, rfl, rfl, rfl, rfl⟩

theorem listedOk_iff (cfg : Config) (p : OutPorts) :
    listedOk cfg p = true ↔
      p = ⟨true, 0b00, 0, opcodeOf .loadImmediate, p.destO, p.src1O, p.src2O, p.immO⟩
        ∧ (∃ d, regmap cfg.isaRev p.destO = some d) ∧ (∃ s1, regmap cfg.isaRev p.src1O = some s1)
        ∧ ∃ s2, regmap cfg.isaRev p.src2O = some s2 := by
  cases p
  simp [listedOk, opcodeOf, Option.isSome_iff_exists, and_assoc]

theorem eq_errInfo_invalidRegister_iff (x : Word) (n : RegNum) :
    x = errInfo (.invalidRegister n) ↔ x.toNat < 16 ∧ x.extractLsb' 0 4 = n := by
  constructor
  · rintro rfl
    exact ⟨by rw [errInfo_invalidRegister_toNat]; exact n.isLt, errInfo_readBack n⟩
  · rintro ⟨small, rfl⟩
    apply BitVec.eq_of_toNat_eq
    rw [errInfo_invalidRegister_toNat, BitVec.extractLsb'_toNat, Nat.shiftRight_zero, Nat.mod_eq_of_lt small]

theorem listedErr_iff (cfg : Config) (p : OutPorts) :
    listedErr cfg p = true ↔
      (optable (opcodeField p.errInfoO) = none ∧ p = errPorts (.unknownInstruction p.errInfoO))
        ∨ ∃ n, regmap cfg.isaRev n = none ∧ p = errPorts (.invalidRegister n) := by
  cases p
  simp only [listedErr, errPorts, errKindCode, OutPorts.mk.injEq, Bool.and_eq_true, Bool.or_eq_true, beq_iff_eq,
    Option.isNone_iff_eq_none, decide_eq_true_eq, Bool.not_eq_true', eq_errInfo_invalidRegister_iff]
  constructor
  · rintro ⟨⟨⟨⟨⟨⟨rfl, rfl⟩, rfl⟩, rfl⟩, rfl⟩, rfl⟩, ⟨rfl, unmapped⟩ | ⟨⟨rfl, small⟩, unmapped⟩⟩
    · exact .inl ⟨unmapped, rfl, rfl, rfl, rfl, rfl, rfl, rfl, rfl⟩
    · exact .inr ⟨_, unmapped, rfl, rfl, ⟨small, rfl⟩, rfl, rfl, rfl, rfl, rfl⟩
  · rintro (⟨unmapped, rfl, rfl, -, rfl, rfl, rfl, rfl, rfl⟩ |
      ⟨n, unmapped, rfl, rfl, ⟨small, rfl⟩, rfl, rfl, rfl, rfl, rfl⟩)
    · exact ⟨⟨⟨⟨⟨⟨rfl, rfl⟩, rfl⟩, rfl⟩, rfl⟩, rfl⟩, .inl ⟨rfl, unmapped⟩⟩
    · exact ⟨⟨⟨⟨⟨⟨rfl, rfl⟩, rfl⟩, rfl⟩, rfl⟩, rfl⟩, .inr ⟨⟨rfl, small⟩, unmapped⟩⟩

/-- A listed valuation whose numbers and immediate fit one word is produced by that word. -/
theorem exists_blockPorts_eq_of_listedOk {cfg : Config} {p : OutPorts} (listed : listedOk cfg p = true)
    (agrees : bit16Agrees cfg.src2Layout p.src2O p.immO = true) : ∃ w, blockPorts cfg w = some p := by
  obtain ⟨shape, ⟨d, dest⟩, ⟨s1, src1⟩, ⟨s2, src2⟩⟩ := (listedOk_iff cfg p).mp listed
  obtain ⟨w, encoded⟩ := Option.isSome_iff_exists.mp
    ((enc_isSome_iff cfg.src2Layout (opcodeOf .loadImmediate) p.destO p.src1O p.src2O p.immO).mpr agrees)
  obtain ⟨opcodeEq, destEq, src1Eq, src2Eq, immEq⟩ := Fields.mk.inj ((enc_eq_some_iff cfg _ _ _ _ _ w).mp encoded)
  have decoded := decode_of_all_mapped (optable_eq_some.mpr opcodeEq) (destEq ▸ dest) (src1Eq ▸ src1) (src2Eq ▸ src2)
  refine ⟨w, ?_⟩
  rw [blockPorts_of_decode_eq_ok decoded, shape, fieldPorts, opcodeEq, destEq, src1Eq, src2Eq, immEq]

theorem listedOk_fieldPorts {cfg : Config} {w : Word} {i : Instr} (h : decode cfg w = .ok i) :
    listedOk cfg (fieldPorts cfg w) = true := by
  obtain ⟨op, d, s1, s2, opcode, dest, src1, src2, rfl⟩ := (decode_eq_ok_iff cfg w i).mp h
  refine (listedOk_iff cfg _).mpr ⟨?_, ⟨d, dest⟩, ⟨s1, src1⟩, ⟨s2, src2⟩⟩
  rw [fieldPorts, optable_eq_some.mp opcode]

/-- A number outside the revision is reported for the word that holds it in `dest`. -/
theorem decode_eq_invalidRegister_of_unmapped_dest {cfg : Config} {n : RegNum} (unmapped : regmap cfg.isaRev n = none) :
    decode cfg (encWord (opcodeOf .loadImmediate) n 0 0 0) = .err (.invalidRegister n) := by
  have dest := destField_encWord (opcodeOf .loadImmediate) n 0 0 0
  have answer := decode_of_dest_unmapped (cfg := cfg) (w := encWord (opcodeOf .loadImmediate) n 0 0 0)
    (optable_eq_some.mpr (opcodeField_encWord _ n 0 0 0)) (by rw [dest, unmapped])
  rwa [dest] at answer

/-- Settles O29: each kind of valuation is on the list, and each entry of the list has a word that produces it. -/
theorem reachablePortValuations : Obligations.ReachablePortValuations := by
  intro cfg p _
  constructor
  · rintro ⟨w, ports⟩
    obtain ⟨i, decoded, rfl⟩ | ⟨decoded, rfl⟩ | ⟨n, decoded, rfl⟩ := blockPorts_cases ports
    · exact .inl ⟨listedOk_fieldPorts decoded, bit16Agrees_fields cfg.src2Layout w⟩
    · obtain ⟨unmapped, -⟩ := (decode_eq_unknownInstruction_iff cfg w w).mp decoded
      exact .inr ((listedErr_iff cfg _).mpr (.inl ⟨unmapped, rfl⟩))
    · obtain ⟨unmapped, -, -⟩ := invalidRegisterPayload cfg w n decoded
      exact .inr ((listedErr_iff cfg _).mpr (.inr ⟨n, unmapped, rfl⟩))
  · rintro (⟨listed, agrees⟩ | listed)
    · exact exists_blockPorts_eq_of_listedOk listed agrees
    · obtain ⟨unmapped, shape⟩ | ⟨n, unmapped, rfl⟩ := (listedErr_iff cfg p).mp listed
      · exact ⟨p.errInfoO, by rw [blockPorts_of_err (decode_of_opcode_unmapped unmapped), ← shape]⟩
      · exact ⟨_, blockPorts_of_err (decode_eq_invalidRegister_of_unmapped_dest unmapped)⟩

end Sys2Proof.Machine
end

section
/-! PROOFS. The wire equations of the validator and of the decoder, for `REV_A` (43_port_encoding.md section 3, rule
R168). -/
namespace Sys2Proof.Machine

/-- A number is in `REV_A` when its upper three wires are zero. -/
theorem upperWires_eq_zero_eq_isSome_regmap_revA (n : RegNum) :
    (n.extractLsb' 1 3 == 0b000#3) = (regmap .revA n).isSome := by
  revert n
  decide

theorem lowWire_of_regmap_revA {n : RegNum} {r : RegisterID} (mapped : regmap .revA n = some r) :
    lowWire (n.getLsbD 0) = n := by
  have small := toNat_lt_of_regmap_revA mapped
  clear mapped
  revert n
  decide

theorem isOk_resolve_eq_isSome_regmap (rev : IsaRev) (id : RegNum) :
    (resolve rev id).isOk = (regmap rev id).isSome := by
  obtain ⟨r, mapped, answer⟩ | ⟨unmapped, answer⟩ := resolve_cases rev id
  · rw [mapped, answer, Result.isOk, Option.isSome_some]
  · rw [unmapped, answer, Result.isOk, Option.isSome_none]

theorem validatorPorts_validO (rev : IsaRev) (id : RegNum) :
    (validatorPorts rev id).validO = (regmap rev id).isSome := by
  obtain ⟨r, mapped, ports⟩ | ⟨unmapped, ports⟩ := validatorPorts_cases rev id
  · rw [mapped, ports, Option.isSome_some]
  · rw [unmapped, ports, Option.isSome_none]

/-- Settles O26: the ports by the table's two answers; under `REV_A` they are the upper wires' test and the low wire. -/
theorem validatorPortEquations : Obligations.ValidatorPortEquations := by
  refine ⟨fun rev id => ?_, fun id => ?_⟩
  · rw [isOk_resolve_eq_isSome_regmap, ← validatorPorts_validO]
    obtain ⟨r, mapped, ports⟩ | ⟨unmapped, ports⟩ := validatorPorts_cases rev id
    · rw [ports]
      exact ⟨rfl, rfl, fun r' answer => num_of_regmap (resolve_eq_ok_iff.mp answer), fun h => by cases h⟩
    · rw [ports, resolve_of_regmap_eq_none unmapped]
      exact ⟨rfl, rfl, fun _ answer => (by cases answer), fun _ => rfl⟩
  · rw [validatorPorts_validO]
    refine ⟨(upperWires_eq_zero_eq_isSome_regmap_revA id).symm, ?_⟩
    obtain ⟨r, mapped, ports⟩ | ⟨unmapped, ports⟩ := validatorPorts_cases .revA id
    · rw [ports, mapped, Option.isSome_some, Bool.and_true]
      exact (lowWire_of_regmap_revA mapped).symm
    · rw [ports, unmapped, Option.isSome_none, Bool.and_false]
      rfl

section Wires

variable (layout : Src2Layout) (w : Word)

theorem opcodeWires_eq_isSome_optable : (w.extractLsb' 0 5 == 0b00001#5) = (optable (opcodeField w)).isSome := by
  rw [Bool.eq_iff_iff, beq_iff_eq, isSome_optable_iff, opcodeField]

theorem wires_beq_zero_iff (lo n : Nat) : (w.extractLsb' lo n == 0#n) = true ↔ bitRun w lo n = 0 := by
  rw [beq_iff_eq, ← extractLsb'_toNat_eq_bitRun, BitVec.toNat_eq, BitVec.toNat_ofNat, Nat.zero_mod]

theorem destWires_eq_isSome_regmap : (w.extractLsb' 6 3 == 0b000#3) = (regmap .revA (destField w)).isSome := by
  rw [Bool.eq_iff_iff, wires_beq_zero_iff, regmap_revA_isSome_iff, destField_toNat, bitRun, bitRun]
  omega

theorem src1Wires_eq_isSome_regmap : (w.extractLsb' 10 3 == 0b000#3) = (regmap .revA (src1Field w)).isSome := by
  rw [Bool.eq_iff_iff, wires_beq_zero_iff, regmap_revA_isSome_iff, src1Field_toNat, bitRun, bitRun]
  omega

theorem src2Wire_eq_isSome_regmap : src2Wire layout w = (regmap .revA (src2Field layout w)).isSome := by
  cases layout with
  | overlap4 =>
    rw [src2Wire, Bool.eq_iff_iff, wires_beq_zero_iff, regmap_revA_isSome_iff, src2Field_overlap4_toNat, bitRun, bitRun]
    omega
  | disjoint3 =>
    rw [src2Wire, Bool.eq_iff_iff, wires_beq_zero_iff, regmap_revA_isSome_iff, src2Field_disjoint3_toNat, bitRun,
      bitRun]
    omega

theorem badSrc2Wire_eq_src2Field : badSrc2Wire layout w = src2Field layout w := by
  cases layout with
  | overlap4 => rfl
  | disjoint3 => exact (BitVec.setWidth_eq_append (by decide)).symm

theorem extractLsb'_5_4_eq_destField : w.extractLsb' 5 4 = destField w := rfl

theorem extractLsb'_9_4_eq_src1Field : w.extractLsb' 9 4 = src1Field w := rfl

theorem extractLsb'_16_16_eq_immField : w.extractLsb' 16 16 = immField w := rfl

theorem getLsbD_5_eq_destField : w.getLsbD 5 = (destField w).getLsbD 0 := by
  simp [destField]

theorem getLsbD_9_eq_src1Field : w.getLsbD 9 = (src1Field w).getLsbD 0 := by
  simp [src1Field]

theorem getLsbD_13_eq_src2Field : w.getLsbD 13 = (src2Field layout w).getLsbD 0 := by
  cases layout <;> simp [src2Field]

end Wires

/-- Settles O27: every wire of the equations is a test or a field of `decode`, so each branch of `decode` decides all
eight outputs. -/
theorem portEquationsRefineDecode : Obligations.PortEquationsRefineDecode := by
  intro layout w
  simp only [portEquations, opcodeWires_eq_isSome_optable, destWires_eq_isSome_regmap, src1Wires_eq_isSome_regmap,
    src2Wire_eq_isSome_regmap, badSrc2Wire_eq_src2Field, getLsbD_5_eq_destField, getLsbD_9_eq_src1Field,
    getLsbD_13_eq_src2Field layout, extractLsb'_5_4_eq_destField,
    extractLsb'_9_4_eq_src1Field, extractLsb'_16_16_eq_immField]
  obtain ⟨opcode, answer⟩ | ⟨op, opcode, ⟨dest, answer⟩ | ⟨d, dest, ⟨src1, answer⟩ | ⟨s1, src1, ⟨src2, answer⟩ |
    ⟨s2, src2, answer⟩⟩⟩⟩ := decode_cases ⟨.revA, layout⟩ w
  · rw [blockPorts_of_err answer]
    simp [opcode, errPorts, errKindCode, errInfo, lowWire]
  · rw [blockPorts_of_err answer]
    simp [opcode, dest, errPorts, errKindCode, errInfo, lowWire]
  · rw [blockPorts_of_err answer]
    simp [opcode, dest, src1, errPorts, errKindCode, errInfo, lowWire]
  · rw [blockPorts_of_err answer]
    simp [opcode, dest, src1, src2, errPorts, errKindCode, errInfo, lowWire]
  · rw [blockPorts_of_decode_eq_ok answer]
    simp only [opcode, dest, src1, src2, Option.isSome_some, Bool.and_true, if_true, lowWire_of_regmap_revA dest,
      lowWire_of_regmap_revA src1, lowWire_of_regmap_revA src2]
    rw [fieldPorts, optable_eq_some.mp opcode]
    rfl

end Sys2Proof.Machine
end

section
/-! PROOFS. Legality under `REV_A` as one masked comparison (30_encoding.md section 5). -/
namespace Sys2Proof.Machine

section MaskedFields

variable (w m : Word)

theorem opcodeField_and : opcodeField (w &&& m) = opcodeField w &&& opcodeField m := BitVec.extractLsb'_and

theorem destField_and : destField (w &&& m) = destField w &&& destField m := BitVec.extractLsb'_and

theorem src1Field_and : src1Field (w &&& m) = src1Field w &&& src1Field m := BitVec.extractLsb'_and

theorem immField_and : immField (w &&& m) = immField w &&& immField m := BitVec.extractLsb'_and

theorem src2Field_and (layout : Src2Layout) :
    src2Field layout (w &&& m) = src2Field layout w &&& src2Field layout m := by
  cases layout with
  | overlap4 => exact BitVec.extractLsb'_and
  | disjoint3 => simp only [src2Field, BitVec.extractLsb'_and, BitVec.setWidth_and]

end MaskedFields

/-- Masking the upper three bits of a number is the test for membership in `REV_A`. -/
theorem and_14_eq_zero_iff (n : RegNum) : n &&& 14#4 = 0 ↔ n.toNat < 2 := by
  revert n
  decide

theorem and_6_eq_zero_iff {n : RegNum} (small : n.toNat < 2 ^ 3) : n &&& 6#4 = 0 ↔ n.toNat < 2 := by
  revert n
  decide

theorem and_one_eq_zero_iff (i : Imm16) : i &&& 1#16 = 0 ↔ i.toNat % 2 = 0 := by
  rw [BitVec.toNat_eq, BitVec.toNat_and, BitVec.toNat_ofNat, Nat.mod_eq_of_lt (by decide), Nat.and_one_is_mod]
  rfl

/-- The mask tests the `src2` field, also where the layout makes one of its bits the immediate's. -/
theorem masked_src2_and_imm_eq_zero_iff (layout : Src2Layout) (w : Word) :
    (src2Field layout (w &&& legalMask layout) = 0 ∧ immField (w &&& legalMask layout) = 0)
      ↔ (src2Field layout w).toNat < 2 := by
  rw [src2Field_and, immField_and]
  have agrees := bit16Agrees_fields layout w
  cases layout with
  | overlap4 =>
    have src2Mask : src2Field .overlap4 (legalMask .overlap4) = 14#4 := rfl
    have immMask : immField (legalMask .overlap4) = 1#16 := rfl
    rw [bit16Agrees_overlap4_iff] at agrees
    rw [src2Mask, immMask, and_14_eq_zero_iff, and_one_eq_zero_iff]
    omega
  | disjoint3 =>
    have src2Mask : src2Field .disjoint3 (legalMask .disjoint3) = 6#4 := rfl
    have immMask : immField (legalMask .disjoint3) = 0#16 := rfl
    rw [bit16Agrees_disjoint3_iff] at agrees
    rw [src2Mask, immMask, and_6_eq_zero_iff agrees, BitVec.and_zero]
    exact and_iff_left rfl

/-- The word 1 is the one whose fields are the opcode 1 and zeros. -/
theorem eq_one_iff_fields (cfg : Config) (w : Word) :
    w = 1#32 ↔ opcodeField w = 1#5 ∧ destField w = 0 ∧ src1Field w = 0 ∧ src2Field cfg.src2Layout w = 0
      ∧ immField w = 0 := by
  have fieldsOne : fields cfg 1#32 = ⟨1#5, 0, 0, 0, 0⟩ := by
    rcases cfg with ⟨rev, _ | _⟩ <;> rfl
  constructor
  · rintro rfl
    exact Fields.mk.inj fieldsOne
  · intro fieldsEq
    apply fieldsDetermineTheWord cfg
    rw [fieldsOne, fields, Fields.mk.injEq]
    exact fieldsEq

/-- Settles O10: the mask acts on each field by itself, and keeps of a register number what must be zero. -/
theorem legalWordsAreTheMaskedOnes : Obligations.LegalWordsAreTheMaskedOnes := by
  intro layout w
  have opcodeMask : opcodeField (legalMask layout) = BitVec.allOnes 5 := by cases layout <;> rfl
  have destMask : destField (legalMask layout) = 14#4 := by cases layout <;> rfl
  have src1Mask : src1Field (legalMask layout) = 14#4 := by cases layout <;> rfl
  rw [decode_isOk_iff, isSome_optable_iff, regmap_revA_isSome_iff, regmap_revA_isSome_iff, regmap_revA_isSome_iff,
    eq_one_iff_fields ⟨.revA, layout⟩, masked_src2_and_imm_eq_zero_iff, opcodeField_and, opcodeMask, BitVec.and_allOnes,
    destField_and, destMask, and_14_eq_zero_iff, src1Field_and, src1Mask, and_14_eq_zero_iff]

end Sys2Proof.Machine
end

section
/-! PROOFS. How many words give each kind of result: a masked comparison fixes the bits inside the mask and leaves the
others free (30_encoding.md section 5). -/
namespace Sys2Proof.Machine

/-- The bits of a word that a mask leaves free. -/
def freeBits {n : Nat} (m c : BitVec n) (w : { w : BitVec n // w &&& m = c })
    (k : { k : Fin n // m.getLsbD k = false }) : Bool :=
  w.val.getLsbD k.val

theorem freeBits_injective {n : Nat} (m c : BitVec n) : Function.Injective (freeBits m c) := by
  rintro ⟨w, hw⟩ ⟨v, hv⟩ same
  refine Subtype.ext (BitVec.eq_of_getLsbD_eq fun k hk => ?_)
  cases bit : m.getLsbD k with
  | false => exact congrFun same ⟨⟨k, hk⟩, bit⟩
  | true =>
    have masked := congrArg (BitVec.getLsbD · k) (hw.trans hv.symm)
    simpa [bit] using masked

/-- The word with given free bits, and the bits of `c` in the other places. -/
def withFreeBits {n : Nat} (m c : BitVec n) (bits : { k : Fin n // m.getLsbD k = false } → Bool) : BitVec n :=
  BitVec.ofFnLE fun k => if free : m.getLsbD k = false then bits ⟨k, free⟩ else c.getLsbD k

section FreeBits

variable {n : Nat} {m c : BitVec n} (bits : { k : Fin n // m.getLsbD k = false } → Bool) {k : Fin n}

theorem getLsbD_withFreeBits_of_free (free : m.getLsbD k = false) :
    (withFreeBits m c bits).getLsbD k = bits ⟨k, free⟩ := by
  rw [withFreeBits, BitVec.getLsbD_ofFnLE, dif_pos k.isLt, dif_pos free]

theorem getLsbD_withFreeBits_of_masked (masked : m.getLsbD k = true) :
    (withFreeBits m c bits).getLsbD k = c.getLsbD k := by
  rw [withFreeBits, BitVec.getLsbD_ofFnLE, dif_pos k.isLt, dif_neg (by simp [masked])]

theorem withFreeBits_and (inside : c &&& m = c) : withFreeBits m c bits &&& m = c := by
  refine BitVec.eq_of_getLsbD_eq fun k hk => ?_
  rw [BitVec.getLsbD_and]
  cases bit : m.getLsbD k with
  | false => rw [← inside, BitVec.getLsbD_and, bit, Bool.and_false, Bool.and_false]
  | true => rw [getLsbD_withFreeBits_of_masked bits (k := ⟨k, hk⟩) bit, Bool.and_true]

end FreeBits

theorem freeBits_surjective {n : Nat} {m c : BitVec n} (inside : c &&& m = c) :
    Function.Surjective (freeBits m c) := fun bits =>
  ⟨⟨withFreeBits m c bits, withFreeBits_and bits inside⟩,
    funext fun k => getLsbD_withFreeBits_of_free bits k.property⟩

/-- A masked comparison leaves two choices for each bit outside the mask. -/
theorem card_and_eq {n : Nat} {m c : BitVec n} (inside : c &&& m = c) :
    Nat.card { w : BitVec n // w &&& m = c } = 2 ^ Nat.card { k : Fin n // m.getLsbD k = false } := by
  rw [Nat.card_eq_of_bijective _ ⟨freeBits_injective m c, freeBits_surjective inside⟩, Nat.card_fun,
    Nat.card_eq_fintype_card (α := Bool), Fintype.card_bool]

theorem card_legal (layout : Src2Layout) :
    Nat.card { w : Word // (decode ⟨.revA, layout⟩ w).isOk = true }
      = 2 ^ Nat.card { k : Fin 32 // (legalMask layout).getLsbD k = false } := by
  rw [← card_and_eq (m := legalMask layout) (c := 1#32) (by cases layout <;> rfl)]
  exact Nat.card_congr (Equiv.subtypeEquivRight (legalWordsAreTheMaskedOnes layout))

theorem card_legal_overlap4 : Nat.card { w : Word // (decode ⟨.revA, .overlap4⟩ w).isOk = true } = 262144 := by
  have free : Nat.card { k : Fin 32 // (legalMask .overlap4).getLsbD k = false } = 18 := by
    rw [Nat.card_eq_fintype_card]
    decide
  rw [card_legal, free]
  norm_num

theorem card_legal_disjoint3 : Nat.card { w : Word // (decode ⟨.revA, .disjoint3⟩ w).isOk = true } = 524288 := by
  have free : Nat.card { k : Fin 32 // (legalMask .disjoint3).getLsbD k = false } = 19 := by
    rw [Nat.card_eq_fintype_card]
    decide
  rw [card_legal, free]
  norm_num

/-- Settles O11: 18 and 19 bits of the word are outside the masks. -/
theorem legalWordsCounted : Obligations.LegalWordsCounted := ⟨card_legal_overlap4, card_legal_disjoint3⟩

theorem isSome_optable_opcodeField_iff_masked (w : Word) : (optable (opcodeField w)).isSome ↔ w &&& 31#32 = 1#32 := by
  have opcodeMask : opcodeField 31#32 = BitVec.allOnes 5 := rfl
  have destMask : destField 31#32 = 0#4 := rfl
  have src1Mask : src1Field 31#32 = 0#4 := rfl
  have src2Mask : src2Field Config.hardware.src2Layout 31#32 = 0#4 := rfl
  have immMask : immField 31#32 = 0#16 := rfl
  rw [isSome_optable_iff, eq_one_iff_fields Config.hardware, opcodeField_and, opcodeMask, BitVec.and_allOnes,
    destField_and, destMask, src1Field_and, src1Mask, src2Field_and, src2Mask, immField_and, immMask]
  simp

theorem card_opcode_mapped : Nat.card { w : Word // (optable (opcodeField w)).isSome } = 2 ^ 27 := by
  have free : Nat.card { k : Fin 32 // (31#32).getLsbD k = false } = 27 := by
    rw [Nat.card_eq_fintype_card]
    decide
  rw [← free, ← card_and_eq (m := 31#32) (c := 1#32) rfl]
  exact Nat.card_congr (Equiv.subtypeEquivRight isSome_optable_opcodeField_iff_masked)

theorem card_word : Nat.card Word = 2 ^ 32 :=
  Nat.card_eq_of_equiv_fin BitVec.equivFin.toEquiv

theorem unknownInstruction_iff_not_isSome (cfg : Config) (w : Word) :
    (∃ v, decode cfg w = .err (.unknownInstruction v)) ↔ ¬(optable (opcodeField w)).isSome := by
  simp [decode_eq_unknownInstruction_iff]

/-- The words that are no instruction of the mapped opcode are those outside 2^27. -/
theorem card_unknownInstruction (cfg : Config) :
    Nat.card { w : Word // ∃ v, decode cfg w = .err (.unknownInstruction v) } = 2 ^ 32 - 2 ^ 27 := by
  rw [← card_word, ← card_opcode_mapped,
    Nat.card_congr (Equiv.subtypeEquivRight (unknownInstruction_iff_not_isSome cfg))]
  exact Set.ncard_compl { w : Word | (optable (opcodeField w)).isSome }

theorem invalidRegister_iff_mapped_and_not_isOk (cfg : Config) (w : Word) :
    (∃ n, decode cfg w = .err (.invalidRegister n))
      ↔ (optable (opcodeField w)).isSome ∧ ¬(decode cfg w).isOk = true := by
  rw [decode_is_some_invalidRegister_iff, decode_isOk_iff]
  simp only [Option.isSome_iff_ne_none]
  tauto

theorem card_invalidRegister (cfg : Config) :
    Nat.card { w : Word // ∃ n, decode cfg w = .err (.invalidRegister n) }
      = 2 ^ 27 - Nat.card { w : Word // (decode cfg w).isOk = true } := by
  have legalMapped : { w : Word | (decode cfg w).isOk = true } ⊆ { w : Word | (optable (opcodeField w)).isSome } :=
    fun w isOk => ((decode_isOk_iff cfg w).mp isOk).left
  rw [← card_opcode_mapped,
    Nat.card_congr (Equiv.subtypeEquivRight (invalidRegister_iff_mapped_and_not_isOk cfg))]
  exact Set.ncard_sdiff legalMapped

/-- Settles O12: the unmapped words are the complement of 2^27, and of those the words not legal name a register outside
the revision. -/
theorem errorWordsCounted : Obligations.ErrorWordsCounted := by
  refine ⟨fun cfg => (card_unknownInstruction cfg).trans (by norm_num), ?_, ?_⟩
  · rw [card_invalidRegister, card_legal_overlap4]
    norm_num
  · rw [card_invalidRegister, card_legal_disjoint3]
    norm_num

end Sys2Proof.Machine
end
